-- ==== Sys2Proof/Word.lean ====
section
/-! DEFINITION. The word types of the DNSHDR block (spec/00_scope.md R6, R8, R11; spec/10_state.md R32).

Every numeric value of the block is unsigned (R8). Bits are numbered from 0 at the least significant end (R7). -/

namespace Sys2Proof

/-- A byte of the byte source or of the byte sink: 8 bits (R6, R50). -/
abbrev Byte := BitVec 8

/-- A 4-bit enumeration code as it stands on the wire (R6, R11). -/
abbrev U4 := BitVec 4

/-- An unsigned 16-bit value: the identifier, a section count, the flag word, a wire word (R6, R11). -/
abbrev U16 := BitVec 16

/-- The operand port `wdata`, `WDATA_W` = 32 bits, unsigned (R6, R32, R85; decision D4). -/
abbrev Operand := BitVec 32

/-- The encoded form: a list of exactly twelve bytes, the byte at index 0 first on the wire (R11, R70). -/
abbrev Bytes12 := Vector Byte 12

end Sys2Proof
end

