-- ==== Sys2Proof/Syntax.lean ====
section
/-! DEFINITION. The abstract command set: the two closed enumerations (spec/30_encoding.md R76, R77), the twelve header
fields (spec/10_state.md R20), the command as it stands on the ports (R32) and `Instr`, one constructor for each of the 29
rows of spec/opcode_table.json (R87).

A command that uses the operand carries `wdata` whole, legal or not: which operands are legal is WellFormed.lean's
predicate (R85), and what an illegal one does is the meaning's (R88, R184). A command that ignores `wdata` carries none. -/

namespace Sys2Proof

/-- The closed enumeration `Opcode`, the kind of query (R11, R76). Not the command code, which is `Command.cw` (R13). -/
inductive Opcode where
  | query
  | iquery
  | status
  deriving DecidableEq, Repr

/-- The closed enumeration `ResponseCode`, the outcome of a query (R11, R77). -/
inductive ResponseCode where
  | noError
  | formatError
  | serverFailure
  | nameError
  | notImplemented
  | refused
  deriving DecidableEq, Repr

/-- The twelve fields of a Header in declaration order (R20); the position is the selector number (R86). -/
inductive HeaderField where
  | id
  | request
  | opcode
  | authoritativeAnswer
  | truncated
  | recursionDesired
  | recursionAvailable
  | responseCode
  | questionEntries
  | answerEntries
  | authorityRecords
  | additionalRecords
  deriving DecidableEq, Repr

/-- One command as the host presents it: the command word `cw` (8 bits) and the operand `wdata` (32 bits) (R32). -/
structure Command where
  cw : BitVec 8
  wdata : Operand
  deriving DecidableEq, Repr

/-- The 29 commands of the block, in the order of the command code table (R87). -/
inductive Instr where
  /-- CLEAR, R100. -/
  | clear
  /-- ENCODE, R140. -/
  | encode
  /-- DECODE, R150. -/
  | decode
  /-- BYCODE_OPCODE, R174. -/
  | bycodeOpcode (wdata : Operand)
  /-- BYCODE_RCODE, R175. -/
  | bycodeRcode (wdata : Operand)
  /-- GET_ID, R103. -/
  | getId
  /-- GET_REQUEST, R104. -/
  | getRequest
  /-- GET_OPCODE, R105. -/
  | getOpcode
  /-- GET_AA, R106. -/
  | getAa
  /-- GET_TC, R107. -/
  | getTc
  /-- GET_RD, R108. -/
  | getRd
  /-- GET_RA, R109. -/
  | getRa
  /-- GET_RCODE, R110. -/
  | getRcode
  /-- GET_QUESTIONENTRIES, R111. -/
  | getQuestionEntries
  /-- GET_ANSWERENTRIES, R112. -/
  | getAnswerEntries
  /-- GET_AUTHORITYRECORDS, R113. -/
  | getAuthorityRecords
  /-- GET_ADDITIONALRECORDS, R114. -/
  | getAdditionalRecords
  /-- SET_ID, R115. -/
  | setId (wdata : Operand)
  /-- SET_REQUEST, R116. -/
  | setRequest (wdata : Operand)
  /-- SET_OPCODE, R117. -/
  | setOpcode (wdata : Operand)
  /-- SET_AA, R118. -/
  | setAa (wdata : Operand)
  /-- SET_TC, R119. -/
  | setTc (wdata : Operand)
  /-- SET_RD, R120. -/
  | setRd (wdata : Operand)
  /-- SET_RA, R121. -/
  | setRa (wdata : Operand)
  /-- SET_RCODE, R122. -/
  | setRcode (wdata : Operand)
  /-- SET_QUESTIONENTRIES, R123. -/
  | setQuestionEntries (wdata : Operand)
  /-- SET_ANSWERENTRIES, R124. -/
  | setAnswerEntries (wdata : Operand)
  /-- SET_AUTHORITYRECORDS, R125. -/
  | setAuthorityRecords (wdata : Operand)
  /-- SET_ADDITIONALRECORDS, R126. -/
  | setAdditionalRecords (wdata : Operand)
  deriving DecidableEq, Repr

/-- The mnemonic of a command in the textual notation of R89 and the table of R87. -/
def Instr.mnemonic : Instr → String
  | .clear => "CLEAR"
  | .encode => "ENCODE"
  | .decode => "DECODE"
  | .bycodeOpcode _ => "BYCODE_OPCODE"
  | .bycodeRcode _ => "BYCODE_RCODE"
  | .getId => "GET_ID"
  | .getRequest => "GET_REQUEST"
  | .getOpcode => "GET_OPCODE"
  | .getAa => "GET_AA"
  | .getTc => "GET_TC"
  | .getRd => "GET_RD"
  | .getRa => "GET_RA"
  | .getRcode => "GET_RCODE"
  | .getQuestionEntries => "GET_QUESTIONENTRIES"
  | .getAnswerEntries => "GET_ANSWERENTRIES"
  | .getAuthorityRecords => "GET_AUTHORITYRECORDS"
  | .getAdditionalRecords => "GET_ADDITIONALRECORDS"
  | .setId _ => "SET_ID"
  | .setRequest _ => "SET_REQUEST"
  | .setOpcode _ => "SET_OPCODE"
  | .setAa _ => "SET_AA"
  | .setTc _ => "SET_TC"
  | .setRd _ => "SET_RD"
  | .setRa _ => "SET_RA"
  | .setRcode _ => "SET_RCODE"
  | .setQuestionEntries _ => "SET_QUESTIONENTRIES"
  | .setAnswerEntries _ => "SET_ANSWERENTRIES"
  | .setAuthorityRecords _ => "SET_AUTHORITYRECORDS"
  | .setAdditionalRecords _ => "SET_ADDITIONALRECORDS"

end Sys2Proof
end

