-- ==== Sys2Proof/Decode.lean ====
section
/-! DEFINITION. The decoder and the encoder of the command word (spec/30_encoding.md section 5: R84, R86, R87, R88).

`cw[7:6]` is the class, `cw[5:4]` must be 0, `cw[3:0]` is the function number (class 0) or the field selector (classes 1
and 2). The decoder is total on the 2^40 commands and rejects by name. A rejected command word is not a stop of the machine:
the step answers it with `IllegalCommand` (R88). The legality of the operand is the meaning's to check (R85; each SET and
BYCODE rule begins with its own check), so the decoder gives the instruction with its operand whatever that is. -/

namespace Sys2Proof

/-- Why a command word is reserved (R84, R86, R88). -/
inductive DecodeError where
  /-- `cw[5:4]` is not 0b00: "any other value makes the command illegal" (R84). -/
  | zeroBitsSet (cw : BitVec 8)
  /-- Class 0 with a function number above 4 (R84). -/
  | reservedFunction (cw : BitVec 8)
  /-- Class 1 or 2 with a field selector 12 to 15, "reserved" (R86). -/
  | reservedSelector (cw : BitVec 8)
  /-- Class 3, "reserved" (R84). -/
  | reservedClass (cw : BitVec 8)
  deriving DecidableEq, Repr

/-- `cw[7:6]`, the class of a command word (R84). -/
def cwClass (cw : BitVec 8) : BitVec 2 := cw.extractLsb' 6 2

/-- `cw[5:4]`, the bits that must be zero (R84). -/
def cwZero (cw : BitVec 8) : BitVec 2 := cw.extractLsb' 4 2

/-- `cw[3:0]`, the function number or field selector of a command word (R84). -/
def cwSel (cw : BitVec 8) : U4 := cw.extractLsb' 0 4

/-- The field a selector names; 12 to 15 are reserved (R86). -/
def HeaderField.ofSelector (sel : U4) : Option HeaderField :=
  match sel.toNat with
  | 0 => some .id
  | 1 => some .request
  | 2 => some .opcode
  | 3 => some .authoritativeAnswer
  | 4 => some .truncated
  | 5 => some .recursionDesired
  | 6 => some .recursionAvailable
  | 7 => some .responseCode
  | 8 => some .questionEntries
  | 9 => some .answerEntries
  | 10 => some .authorityRecords
  | 11 => some .additionalRecords
  | _ => none

/-- The selector of a field: its place in the declaration order (R86). -/
def HeaderField.selector : HeaderField → U4
  | .id => 0
  | .request => 1
  | .opcode => 2
  | .authoritativeAnswer => 3
  | .truncated => 4
  | .recursionDesired => 5
  | .recursionAvailable => 6
  | .responseCode => 7
  | .questionEntries => 8
  | .answerEntries => 9
  | .authorityRecords => 10
  | .additionalRecords => 11

/-- The GET command of a field, class 1 (R84, R87). -/
def HeaderField.getCmd : HeaderField → Instr
  | .id => .getId
  | .request => .getRequest
  | .opcode => .getOpcode
  | .authoritativeAnswer => .getAa
  | .truncated => .getTc
  | .recursionDesired => .getRd
  | .recursionAvailable => .getRa
  | .responseCode => .getRcode
  | .questionEntries => .getQuestionEntries
  | .answerEntries => .getAnswerEntries
  | .authorityRecords => .getAuthorityRecords
  | .additionalRecords => .getAdditionalRecords

/-- The SET command of a field with its operand, class 2 (R84, R87). -/
def HeaderField.setCmd (f : HeaderField) (wdata : Operand) : Instr :=
  match f with
  | .id => .setId wdata
  | .request => .setRequest wdata
  | .opcode => .setOpcode wdata
  | .authoritativeAnswer => .setAa wdata
  | .truncated => .setTc wdata
  | .recursionDesired => .setRd wdata
  | .recursionAvailable => .setRa wdata
  | .responseCode => .setRcode wdata
  | .questionEntries => .setQuestionEntries wdata
  | .answerEntries => .setAnswerEntries wdata
  | .authorityRecords => .setAuthorityRecords wdata
  | .additionalRecords => .setAdditionalRecords wdata

/-- The control command of a function number, class 0 (R84, R87). -/
def controlCmd (fn : U4) (wdata : Operand) : Option Instr :=
  match fn.toNat with
  | 0 => some .clear
  | 1 => some .encode
  | 2 => some .decode
  | 3 => some (.bycodeOpcode wdata)
  | 4 => some (.bycodeRcode wdata)
  | _ => none

/-- The command decoder, by the format of R84. -/
def decode : Command → Except DecodeError Instr
  | ⟨cw, wdata⟩ =>
    if cwZero cw = 0 then
      match (cwClass cw).toNat with
      | 0 =>
        match controlCmd (cwSel cw) wdata with
        | some i => .ok i
        | none => .error (.reservedFunction cw)
      | 1 =>
        match HeaderField.ofSelector (cwSel cw) with
        | some f => .ok f.getCmd
        | none => .error (.reservedSelector cw)
      | 2 =>
        match HeaderField.ofSelector (cwSel cw) with
        | some f => .ok (f.setCmd wdata)
        | none => .error (.reservedSelector cw)
      | _ => .error (.reservedClass cw)
    else .error (.zeroBitsSet cw)

/-- A command word laid out as `{class, 0b00, fn or sel}` (R84). -/
def layCw (cls : BitVec 2) (sel : U4) : BitVec 8 := cls ++ (0 : BitVec 2) ++ sel

/-- The control command with function number `fn` (class 0). -/
def encodeControl (fn : U4) (wdata : Operand) : Command := ⟨layCw 0 fn, wdata⟩

/-- The GET command of a field (class 1); `wdata` is ignored by it and encoded as 0. -/
def encodeGet (f : HeaderField) : Command := ⟨layCw 1 f.selector, 0⟩

/-- The SET command of a field (class 2) with its operand. -/
def encodeSet (f : HeaderField) (wdata : Operand) : Command := ⟨layCw 2 f.selector, wdata⟩

/-- The encoder: the command word and operand of an instruction (R84, R86, R87). -/
def encode : Instr → Command
  | .clear => encodeControl 0 0
  | .encode => encodeControl 1 0
  | .decode => encodeControl 2 0
  | .bycodeOpcode w => encodeControl 3 w
  | .bycodeRcode w => encodeControl 4 w
  | .getId => encodeGet .id
  | .getRequest => encodeGet .request
  | .getOpcode => encodeGet .opcode
  | .getAa => encodeGet .authoritativeAnswer
  | .getTc => encodeGet .truncated
  | .getRd => encodeGet .recursionDesired
  | .getRa => encodeGet .recursionAvailable
  | .getRcode => encodeGet .responseCode
  | .getQuestionEntries => encodeGet .questionEntries
  | .getAnswerEntries => encodeGet .answerEntries
  | .getAuthorityRecords => encodeGet .authorityRecords
  | .getAdditionalRecords => encodeGet .additionalRecords
  | .setId w => encodeSet .id w
  | .setRequest w => encodeSet .request w
  | .setOpcode w => encodeSet .opcode w
  | .setAa w => encodeSet .authoritativeAnswer w
  | .setTc w => encodeSet .truncated w
  | .setRd w => encodeSet .recursionDesired w
  | .setRa w => encodeSet .recursionAvailable w
  | .setRcode w => encodeSet .responseCode w
  | .setQuestionEntries w => encodeSet .questionEntries w
  | .setAnswerEntries w => encodeSet .answerEntries w
  | .setAuthorityRecords w => encodeSet .authorityRecords w
  | .setAdditionalRecords w => encodeSet .additionalRecords w

/-- The command whose bits are `w`, of which the table gives the low `nbits`: bits 7 to 0 are `cw`, bits 39 to 8 are `wdata`,
and every bit at or above `nbits` is 0 (notes/assumptions/10.md). -/
def commandOfBits (nbits w : Nat) : Command :=
  let v := w % 2 ^ nbits
  ⟨BitVec.ofNat 8 v, BitVec.ofNat 32 (v / 256)⟩

/-- The instruction the decoder reads from a word of spec/opcode_table.json. -/
def decodeTableWord (nbits w : Nat) : Option Instr :=
  match decode (commandOfBits nbits w) with
  | .ok i => some i
  | .error _ => none

end Sys2Proof
end

