-- ==== Sys2Proof/Config.lean ====
section
/-! DEFINITION. The implementation parameters (spec/00_scope.md R6) and the one value the spec leaves OPEN.

`POS_W` is taken as unbounded, as R6 allows (notes/assumptions/4.md); `N_HEADERS` is 1 (R6, decision D6); `CW_W` = 8 and
`WDATA_W` = 32 are the widths of `Command` (R6, decisions D3 and D4). -/

namespace Sys2Proof.Config

/-- `HDR_BYTES`: the encoded form "is always exactly 12 bytes" (R6, R70). -/
def hdrBytes : Nat := 12

/-- What a byte of `SRC.mem` that nothing has written reads as. DESIGN CHOICE, unsafe (notes/assumptions/2.md). -/
def blankByte : Byte := 0

/-- Half of `INVALID_ADVANCE`: a free value, one of 0 to 6. The spec leaves it OPEN (R6, R158; decision D11), so it has no
body. DESIGN CHOICE, safe: no proof can see which value it is (notes/assumptions/3.md). -/
opaque invalidAdvanceHalf : Fin 7

/-- `INVALID_ADVANCE`, "OPEN, one of 0, 2, 4, 6, 8, 10, 12" (R6): the bytes the source position moves when DECODE ends in
`InvalidCodeError`. A parameter of the implementation, so one value for every run. -/
def invalidAdvance : Nat := 2 * invalidAdvanceHalf.val

end Sys2Proof.Config
end

