-- ==== Sys2Proof/Machine/State.lean ====
section
/-! DEFINITION. Everything the machine holds (spec/10_state.md): the header register file `H`, the byte source `SRC`, and two
fields of the model's own, the host's schedule and the response of the last command. State is plain data. -/

namespace Sys2Proof.Machine

/-- The header register file `H`: exactly one Header of twelve fields (R20). An enumeration field is `Option` of its closed
enumeration, as R11, R23 and R25 write it; at register level `some m` is "set bit 1, code register code(m)" and `none` is
"set bit 0, code register 0" (R23, R36), which Flags.lean gives as views (notes/assumptions/7.md). -/
structure Header where
  /-- `id`, U16 (R21). -/
  id : U16
  /-- `request`, Bool: true = query, false = response; inverted only at the wire (R22). -/
  request : Bool
  /-- `opcode`, Option Opcode (R23). -/
  opcode : Option Opcode
  /-- `authoritativeAnswer`, Bool (R24). -/
  authoritativeAnswer : Bool
  /-- `truncated`, Bool (R24). -/
  truncated : Bool
  /-- `recursionDesired`, Bool (R24). -/
  recursionDesired : Bool
  /-- `recursionAvailable`, Bool (R24). -/
  recursionAvailable : Bool
  /-- `responseCode`, Option ResponseCode (R25). -/
  responseCode : Option ResponseCode
  /-- `questionEntries`, U16 (R26). -/
  questionEntries : U16
  /-- `answerEntries`, U16 (R26). -/
  answerEntries : U16
  /-- `authorityRecords`, U16 (R26). -/
  authorityRecords : U16
  /-- `additionalRecords`, U16 (R26). -/
  additionalRecords : U16
  deriving DecidableEq, Repr

/-- The empty Header: "all fields at zero-equivalent defaults, enumerations unset" (R38, R200; decision D17). -/
def Header.empty : Header where
  id := 0
  request := false
  opcode := none
  authoritativeAnswer := false
  truncated := false
  recursionDesired := false
  recursionAvailable := false
  responseCode := none
  questionEntries := 0
  answerEntries := 0
  authorityRecords := 0
  additionalRecords := 0

/-- `SRC.mem`: a map from byte address to byte (R28), held as the listed addresses in rising order, none of them holding
what an unlisted address reads as (Ops.lean, `Memory.wf`). -/
abbrev Memory := List Host.Cell

/-- The byte source `SRC` (R28): environment state that DECODE reads and whose position it moves. -/
structure Source where
  /-- `SRC.mem`, the bytes by address. -/
  mem : Memory
  /-- `SRC.pos`, the address of the next unread byte. -/
  pos : Nat
  /-- `SRC.lim`, the address one past the last available byte. -/
  lim : Nat
  deriving DecidableEq, Repr

/-- Which enumeration's lookup failed: the field `which` of the response, 0 Opcode, 1 ResponseCode (R33; decision D13). -/
inductive Enumeration where
  | opcode
  | responseCode
  deriving DecidableEq, Repr

/-- The errors a command can end in (R180). They are results in the response, not stops of the machine (R188). -/
inductive Error where
  /-- `InvalidCodeError`, with the enumeration and "the offending numeric value" (R181). -/
  | invalidCode (which : Enumeration) (code : U4)
  /-- `TruncatedInputError`: fewer than 12 bytes remain (R182). -/
  | truncatedInput
  /-- `OpcodeUnsetError`: ENCODE while `H.opcode` is unset (R183). -/
  | opcodeUnset
  /-- `IllegalCommand`: a reserved command word or an illegal operand (R184). -/
  | illegalCommand
  deriving DecidableEq, Repr

/-- The response of a command as the sum type R33 asks of a model, its values typed as R101 asks. -/
inductive Response where
  /-- OK with no payload: CLEAR, SET, DECODE. -/
  | ok
  /-- OK with a U16 field's value. -/
  | okWord (v : U16)
  /-- OK with a boolean field's value. -/
  | okBool (b : Bool)
  /-- OK with an Opcode field's value, or `unset`. -/
  | okOpcode (o : Option Opcode)
  /-- OK with a ResponseCode field's value, or `unset`. -/
  | okRcode (r : Option ResponseCode)
  /-- OK with the twelve wire bytes: ENCODE. -/
  | okBytes (b : Bytes12)
  /-- The command ended in an error. -/
  | err (e : Error)
  deriving DecidableEq, Repr

/-- The response record at the output ports (R33). -/
structure ResponsePort where
  status : BitVec 3
  which : BitVec 1
  code : U4
  rvalid : BitVec 1
  rdata : U16
  bytes : Bytes12
  deriving DecidableEq, Repr

/-- One thing the outside world does to the block, between two steps or as a step (spec/70_reset_and_hazards.md R215).
DESIGN CHOICE: each is one step of the model (notes/assumptions/5.md). -/
inductive HostEvent where
  /-- The host presents one command (R12, R32). -/
  | command (c : Command)
  /-- The reset input (R202). -/
  | reset
  /-- The host places the bytes `bs` at addresses `a`, `a + 1`, … of `SRC.mem` (R61). -/
  | srcWrite (a : Nat) (bs : List Byte)
  /-- The host sets `SRC.pos` (R61). -/
  | srcPos (p : Nat)
  /-- The host sets `SRC.lim` (R61). -/
  | srcLim (l : Nat)
  deriving DecidableEq, Repr

/-- The whole state. `header` is the block's only state (R34, R35); `src` is the environment state DECODE transforms (R28).
The program counter, control registers, modes and interrupt state that other hardware has do not exist here (R30, R34, R39). -/
structure State where
  /-- `H`, the header register file (R20). -/
  header : Header
  /-- `SRC`, the byte source (R28). -/
  src : Source
  /-- The model's own: what the host does next, in order. The block itself queues nothing (R209). -/
  host : List HostEvent
  /-- The model's own: the response of the last completed command, `none` until the first one after reset, since the outputs
  are "undefined until the first command completes" (R200). No command reads it (R33) (notes/assumptions/6.md). -/
  response : Option Response
  deriving DecidableEq, Repr

/-- The reasons the machine could stop: none. "An error is a result of a command, returned in that command's response"
(spec/60_exceptions.md, opening), so no command and no host event stops the block (R186, R188, R214). -/
inductive Fault where
  deriving DecidableEq, Repr

/-- The reasons the model could give an instruction no meaning. -/
inductive Refusal where
  /-- Raised by an arm of `exec` whose instruction has no meaning yet; safe. No arm of this model raises it. -/
  | notModelled (mnemonic : String)
  deriving DecidableEq, Repr

/-- The machine right after reset (R38, R200): the empty Header. `SRC` "is not reset by the block", so its values here are the
model's: no byte written, position and limit 0. DESIGN CHOICE, unsafe (notes/assumptions/1.md). -/
def State.reset : State where
  header := Header.empty
  src := { mem := [], pos := 0, lim := 0 }
  host := []
  response := none

end Sys2Proof.Machine
end

