-- ==== Sys2Proof/Machine/Ops.lean ====
section
/-! DEFINITION. The named operations the meanings share: byte order, memory, the header's fields, the state's fields, and
answering a command, with success or with an error. Every meaning is written over these. -/

namespace Sys2Proof.Machine

/-! ## Byte order (spec/20_memory.md R53, R54) -/

/-- `hi8(w)` is `w[15:8]`, the byte at the lower offset (R53). -/
def hi8 (w : U16) : Byte := w.extractLsb' 8 8

/-- `lo8(w)` is `w[7:0]`, the byte at the higher offset (R53). -/
def lo8 (w : U16) : Byte := w.extractLsb' 0 8

/-- `be16(b0, b1)` is `{b0, b1}` = `b0 * 256 + b1` (R53). -/
def be16 (b0 b1 : Byte) : U16 := (b0.setWidth 16 <<< 8) ||| b1.setWidth 16

/-! ## Booleans and words (spec/00_scope.md R9) -/

/-- `b2i(b)`, already extended to 16 bits: 1 for true, 0 for false (R9). -/
def b2i (b : Bool) : U16 := if b then 1 else 0

/-- `trunc_16(v)`: the low 16 bits of an operand (R9, R10). -/
def trunc16 (w : Operand) : U16 := w.setWidth 16

/-! ## The byte source's memory (R28, R51)

A list of (address, byte) cells. `Memory.wf` is its canonical form: equal memories are equal lists. -/

/-- The canonical form: addresses strictly rising, and no listed byte equal to what an unlisted address reads as. -/
abbrev Memory.wf (m : Memory) : Prop :=
  (m.map Prod.fst).Pairwise (· < ·) ∧ ∀ c ∈ m, c.2 ≠ Config.blankByte

/-- `SRC.mem(a)`: the byte at one address. -/
def Memory.read : Memory → Nat → Byte
  | [], _ => Config.blankByte
  | (k, b) :: m, a => if a = k then b else Memory.read m a

/-- The memory with the byte at one address replaced, in canonical form. -/
def Memory.write : Memory → Nat → Byte → Memory
  | [], a, v => if v = Config.blankByte then [] else [(a, v)]
  | (k, b) :: m, a, v =>
    if a < k then
      if v = Config.blankByte then (k, b) :: m else (a, v) :: (k, b) :: m
    else if a = k then
      if v = Config.blankByte then m else (a, v) :: m
    else (k, b) :: Memory.write m a v

/-- The memory with the bytes `bs` placed at `a`, `a + 1`, …: what a host does between commands (R61). -/
def Memory.writeBytes : Memory → Nat → List Byte → Memory
  | m, _, [] => m
  | m, a, b :: bs => Memory.writeBytes (Memory.write m a b) (a + 1) bs

/-- `MemRead(SRC, a, n)`, lowest address first (R9, R51). The block evaluates it only for `a + n ≤ SRC.lim` (R51). -/
def Source.memRead (src : Source) (a n : Nat) : Vector Byte n :=
  Vector.ofFn fun i => src.mem.read (a + i.val)

/-- The bytes that remain are enough for one header: the check of R152, "to be evaluated as `pos + 12 > lim`" (D16, C9). -/
def Source.holdsHeader (src : Source) : Bool := decide (src.pos + Config.hdrBytes ≤ src.lim)

/-- `SRC.pos <- SRC.pos + n`: the one move of the position (R31, R158). -/
def Source.advance (src : Source) (n : Nat) : Source := { src with pos := src.pos + n }

/-! ## Writing one field of `H` (spec/40_header_access.md R102) -/

/-- `H.id <- v`. -/
def Header.setId (h : Header) (v : U16) : Header := { h with id := v }

/-- `H.request <- v`. -/
def Header.setRequest (h : Header) (v : Bool) : Header := { h with request := v }

/-- `H.opcode <- v`. -/
def Header.setOpcode (h : Header) (v : Option Opcode) : Header := { h with opcode := v }

/-- `H.authoritativeAnswer <- v`. -/
def Header.setAuthoritativeAnswer (h : Header) (v : Bool) : Header := { h with authoritativeAnswer := v }

/-- `H.truncated <- v`. -/
def Header.setTruncated (h : Header) (v : Bool) : Header := { h with truncated := v }

/-- `H.recursionDesired <- v`. -/
def Header.setRecursionDesired (h : Header) (v : Bool) : Header := { h with recursionDesired := v }

/-- `H.recursionAvailable <- v`. -/
def Header.setRecursionAvailable (h : Header) (v : Bool) : Header := { h with recursionAvailable := v }

/-- `H.responseCode <- v`. -/
def Header.setResponseCode (h : Header) (v : Option ResponseCode) : Header := { h with responseCode := v }

/-- `H.questionEntries <- v`. -/
def Header.setQuestionEntries (h : Header) (v : U16) : Header := { h with questionEntries := v }

/-- `H.answerEntries <- v`. -/
def Header.setAnswerEntries (h : Header) (v : U16) : Header := { h with answerEntries := v }

/-- `H.authorityRecords <- v`. -/
def Header.setAuthorityRecords (h : Header) (v : U16) : Header := { h with authorityRecords := v }

/-- `H.additionalRecords <- v`. -/
def Header.setAdditionalRecords (h : Header) (v : U16) : Header := { h with additionalRecords := v }

/-! ## The state's fields -/

/-- The state with another Header in `H`. -/
def State.setHeader (s : State) (h : Header) : State := { s with header := h }

/-- The state with another byte source. -/
def State.setSrc (s : State) (src : Source) : State := { s with src := src }

/-- The state once the host has done the first thing of its schedule: the rest remains. -/
def State.setHost (s : State) (rest : List HostEvent) : State := { s with host := rest }

/-- The state with the response outputs holding `r`, or not yet defined. -/
def State.setResponse (s : State) (r : Option Response) : State := { s with response := r }

/-! ## Ending a command (spec/60_exceptions.md R188) -/

/-- `respond …`: the command is complete, its one response is `r` (R12, R33). -/
def respond (r : Response) (s : State) : Host.Outcome State Fault Refusal := .next (s.setResponse (some r))

/-- `raise E(info)`: the ONE way a command takes an error. It "ends the command with the error `E` and the information `info`
in the response and with no state change except what the rule of the command names" (R9, R188): the state given here is
already the one the command's rule names. Nothing is saved, no vector, no handler (R188), and so there is no return from
an error and nothing to restore (R189). -/
def raise (e : Error) (s : State) : Host.Outcome State Fault Refusal := respond (.err e) s

/-- A command whose operand must be legal: `if <illegal> then raise IllegalCommand`, before any state is read (R187 (1)). -/
def withOperand {α : Type} (operand : Option α) (s : State) (run : α → Host.Outcome State Fault Refusal) :
    Host.Outcome State Fault Refusal :=
  match operand with
  | some v => run v
  | none => raise .illegalCommand s

end Sys2Proof.Machine
end

