-- ==== Sys2Proof/Machine/Operands.lean ====
section
/-! DEFINITION. The operand forms (spec/30_encoding.md R85): what each kind of operand stands for, `none` where the operand
is outside the legality column. The U16 form, `trunc16`, is total and stands in Ops.lean. -/

namespace Sys2Proof.Machine

/-- A boolean operand: `wdata` 0 or 1 is `i2b(wdata[0])`, anything else is refused, "it is not read as true" (R85, R116). -/
def boolOperand (w : Operand) : Option Bool :=
  match w.toNat with
  | 0 => some false
  | 1 => some true
  | _ => none

/-- An Opcode operand: the member with code `wdata`, by the table of R76. A SET never consults `byCode` (R102). -/
def opcodeOperand (w : Operand) : Option Opcode :=
  match w.toNat with
  | 0 => some .query
  | 1 => some .iquery
  | 2 => some .status
  | _ => none

/-- A ResponseCode operand: the member with code `wdata`, by the table of R77. A SET never consults `byCode` (R102). -/
def rcodeOperand (w : Operand) : Option ResponseCode :=
  match w.toNat with
  | 0 => some .noError
  | 1 => some .formatError
  | 2 => some .serverFailure
  | 3 => some .nameError
  | 4 => some .notImplemented
  | 5 => some .refused
  | _ => none

/-- A BYCODE operand: `wdata[3:0]` where `wdata` is 0 to 15 (R85, R174, R175). -/
def codeOperand (w : Operand) : Option U4 := if w.toNat ≤ 15 then some (w.setWidth 4) else none

end Sys2Proof.Machine
end

