-- ==== Sys2Proof/Machine/Validator.lean ====
section
/-! DEFINITION. The enum validator `byCode` and its inverse `code` (spec/43_enum_lookup.md R170 to R173). Both lookups are
closed tables; no code is ever mapped to a default member (R155, R181). -/

namespace Sys2Proof.Machine

/-- `code(m)` of an Opcode member (R76, R173). -/
def opcodeCode : Opcode → U4
  | .query => 0
  | .iquery => 1
  | .status => 2

/-- `code(m)` of a ResponseCode member (R77, R173). -/
def rcodeCode : ResponseCode → U4
  | .noError => 0
  | .formatError => 1
  | .serverFailure => 2
  | .nameError => 3
  | .notImplemented => 4
  | .refused => 5

/-- `Opcode.byCode`, total on 0 to 15 (R171). -/
def opcodeByCode (c : U4) : Except Error Opcode :=
  match c.toNat with
  | 0 => .ok .query
  | 1 => .ok .iquery
  | 2 => .ok .status
  | _ => .error (.invalidCode .opcode c)

/-- `ResponseCode.byCode`, total on 0 to 15 (R172). -/
def rcodeByCode (c : U4) : Except Error ResponseCode :=
  match c.toNat with
  | 0 => .ok .noError
  | 1 => .ok .formatError
  | 2 => .ok .serverFailure
  | 3 => .ok .nameError
  | 4 => .ok .notImplemented
  | 5 => .ok .refused
  | _ => .error (.invalidCode .responseCode c)

end Sys2Proof.Machine
end

