-- ==== Sys2Proof/Machine/Flags.lean ====
section
/-! DEFINITION. The flags: the block's two set bits with their code registers (spec/10_state.md R23, R25, R27), and the flag
word W1, packed by the bit-packer (spec/41_encode.md R141) and taken apart by the field mux-shifter (spec/42_decode.md R151). -/

namespace Sys2Proof.Machine

/-! ## The set bits and code registers, the register-level view of the two enumeration fields -/

/-- The status flag `opcode_set` (R23, R27). -/
def Header.opcodeSet (h : Header) : Bool := h.opcode.isSome

/-- The code register `opcode_code`; "when `opcode_set = 0` the code register holds 0" (R23). -/
def Header.opcodeReg (h : Header) : U4 :=
  match h.opcode with
  | some m => opcodeCode m
  | none => 0

/-- The status flag `rcode_set` (R25, R27). -/
def Header.rcodeSet (h : Header) : Bool := h.responseCode.isSome

/-- The code register `rcode_code`, with the same convention (R25). -/
def Header.rcodeReg (h : Header) : U4 :=
  match h.responseCode with
  | some m => rcodeCode m
  | none => 0

/-! ## The flag word -/

/-- The bit-packer's flag word: `((request ? 0 : 1) << 15) | (c << 11) | (b2i(rd) << 8)` (R141). AA, TC, RA, RCODE and Z are
not among its terms, so those bits are 0 (R75, R142). -/
def packFlags (request : Bool) (c : U4) (rd : Bool) : U16 :=
  ((if request then 0 else 1) <<< 15) ||| (c.setWidth 16 <<< 11) ||| (b2i rd <<< 8)

/-- The seven named parts of the flag word (R71, R73). There is no selector for Z: "the mux-shifter has no Z input path" (R151). -/
inductive FlagPart where
  | qr
  | opcode
  | aa
  | tc
  | rd
  | ra
  | rcode
  deriving DecidableEq, Repr

/-- The right shift of a part (R74, R151). -/
def FlagPart.shift : FlagPart → Nat
  | .qr => 15
  | .opcode => 11
  | .aa => 10
  | .tc => 9
  | .rd => 8
  | .ra => 7
  | .rcode => 0

/-- The mask of a part (R74, R151). -/
def FlagPart.mask : FlagPart → U16
  | .opcode => 0xF
  | .rcode => 0xF
  | .qr => 0x1
  | .aa => 0x1
  | .tc => 0x1
  | .rd => 0x1
  | .ra => 0x1

/-- The field mux-shifter: `field(f, name)`, a logical right shift and a mask (R151). -/
def flagField (f : U16) (p : FlagPart) : U16 := (f >>> p.shift) &&& p.mask

/-- A one-bit part as a boolean: "true exactly when" the bit is 1 (R154). -/
def flagBit (f : U16) (p : FlagPart) : Bool := flagField f p == 1

/-- A four-bit part as an enumeration code, the input of the enum validator (R155, R176). -/
def flagCode (f : U16) (p : FlagPart) : U4 := (flagField f p).setWidth 4

end Sys2Proof.Machine
end

