-- ==== Sys2Proof/Machine/Wire.lean ====
section
/-! DEFINITION. The wire header (spec/30_encoding.md R70, R74, R75; spec/20_memory.md R59): twelve bytes, six big-endian words at
offsets 0, 2, 4, 6, 8, 10. `encodeHeader` is the source's `toBytes`, `decodeHeader` its `fromBytes` (R90). -/

namespace Sys2Proof.Machine

/-! ## Encode direction -/

/-- `layout(w0, …, w5)` (R143). -/
def layout (w0 w1 w2 w3 w4 w5 : U16) : Bytes12 :=
  #v[hi8 w0, lo8 w0, hi8 w1, lo8 w1, hi8 w2, lo8 w2, hi8 w3, lo8 w3, hi8 w4, lo8 w4, hi8 w5, lo8 w5]

/-- `MemWrite(SNK, o, n, v)`, for `o + n ≤ 12` (R9, R52). The sink is no state of the block: it is the payload of ENCODE's
response (R29). -/
def sinkWrite : Bytes12 → Nat → List Byte → Bytes12
  | snk, _, [] => snk
  | snk, o, b :: bs => sinkWrite (snk.setIfInBounds o b) (o + 1) bs

/-- The bytes of one big-endian word, the lower offset first (R53). -/
def wordBytes (w : U16) : List Byte := [hi8 w, lo8 w]

/-- The layout as "six stores `MemWrite(SNK, 2*i, 2, [hi8(wi), lo8(wi)])` for `i` = 0 to 5" (R143). -/
def sixStores (snk : Bytes12) (w0 w1 w2 w3 w4 w5 : U16) : Bytes12 :=
  sinkWrite (sinkWrite (sinkWrite (sinkWrite (sinkWrite (sinkWrite snk 0 (wordBytes w0)) 2 (wordBytes w1))
    4 (wordBytes w2)) 6 (wordBytes w3)) 8 (wordBytes w4)) 10 (wordBytes w5)

/-- `toBytes(header)`: the encoder of R140. It reads `id`, `request`, `opcode`, `recursionDesired` and the counts, nothing else
(R20, R142), and fails only when the opcode is unset (R145). -/
def encodeHeader (h : Header) : Except Error Bytes12 :=
  match h.opcode with
  | none => .error .opcodeUnset
  | some m =>
    .ok (layout h.id (packFlags h.request (opcodeCode m) h.recursionDesired) h.questionEntries h.answerEntries
      h.authorityRecords h.additionalRecords)

/-! ## Decode direction -/

/-- Word `i` of the wire header, `be16` of the bytes at offsets `2*i` and `2*i + 1` (R59, R70, R153). -/
def wireWord (b : Bytes12) (i : Fin 6) : U16 := be16 (b[2 * i.val]) (b[2 * i.val + 1])

/-- `fromBytes`: the unpack of R74 and R154, with the opcode validated before the response code (R155; decision D12). It makes
a fresh Header or fails; a failure leaves nothing half done (R157). -/
def decodeHeader (b : Bytes12) : Except Error Header :=
  let f := wireWord b 1
  match opcodeByCode (flagCode f .opcode) with
  | .error e => .error e
  | .ok m =>
    match rcodeByCode (flagCode f .rcode) with
    | .error e => .error e
    | .ok r => .ok {
        id := wireWord b 0
        request := flagField f .qr == 0
        opcode := some m
        authoritativeAnswer := flagBit f .aa
        truncated := flagBit f .tc
        recursionDesired := flagBit f .rd
        recursionAvailable := flagBit f .ra
        responseCode := some r
        questionEntries := wireWord b 2
        answerEntries := wireWord b 3
        authorityRecords := wireWord b 4
        additionalRecords := wireWord b 5 }

end Sys2Proof.Machine
end

