-- ==== Sys2Proof/Machine/Control.lean ====
section
/-! DEFINITION. The meanings of the five control commands: CLEAR, ENCODE, DECODE, BYCODE_OPCODE, BYCODE_RCODE. -/

namespace Sys2Proof.Machine

/-- CLEAR: construct an empty Header (spec/40_header_access.md R100); the state of `H` after it is the reset state (R201). -/
def execClear (s : State) : Host.Outcome State Fault Refusal := respond .ok (s.setHeader Header.empty)

/-- ENCODE: the twelve wire bytes of the Header in `H`, or `OpcodeUnsetError`; no state change (spec/41_encode.md R140, R145,
R146). -/
def execEncode (s : State) : Host.Outcome State Fault Refusal :=
  match encodeHeader s.header with
  | .error e => raise e s
  | .ok b => respond (.okBytes b) s

/-- DECODE: load `H` from the twelve bytes at the position (spec/42_decode.md R150). The length check comes first and reads no
byte (R152); an invalid code moves the position by `INVALID_ADVANCE` and loads nothing (R157, R158). -/
def execDecode (s : State) : Host.Outcome State Fault Refusal :=
  if s.src.holdsHeader then
    match decodeHeader (s.src.memRead s.src.pos Config.hdrBytes) with
    | .error e => raise e (s.setSrc (s.src.advance Config.invalidAdvance))
    | .ok h => respond .ok ((s.setHeader h).setSrc (s.src.advance Config.hdrBytes))
  else raise .truncatedInput s

/-- BYCODE_OPCODE: look up an Opcode by its code; no state change in any outcome (spec/43_enum_lookup.md R174). -/
def execBycodeOpcode (wdata : Operand) (s : State) : Host.Outcome State Fault Refusal :=
  withOperand (codeOperand wdata) s fun c =>
    match opcodeByCode c with
    | .ok m => respond (.okOpcode (some m)) s
    | .error e => raise e s

/-- BYCODE_RCODE: look up a ResponseCode by its code; no state change in any outcome (spec/43_enum_lookup.md R175). -/
def execBycodeRcode (wdata : Operand) (s : State) : Host.Outcome State Fault Refusal :=
  withOperand (codeOperand wdata) s fun c =>
    match rcodeByCode c with
    | .ok m => respond (.okRcode (some m)) s
    | .error e => raise e s

end Sys2Proof.Machine
end

