-- ==== Sys2Proof/Machine/Get.lean ====
section
/-! DEFINITION. The meanings of the twelve GET commands (spec/40_header_access.md section 3). A GET reads one field of `H`,
changes no state and raises no error (R101). -/

namespace Sys2Proof.Machine

/-- GET_ID: read `id` (R103). -/
def execGetId (s : State) : Host.Outcome State Fault Refusal := respond (.okWord s.header.id) s

/-- GET_REQUEST: read `request` (R104). -/
def execGetRequest (s : State) : Host.Outcome State Fault Refusal := respond (.okBool s.header.request) s

/-- GET_OPCODE: read `opcode` (R105). -/
def execGetOpcode (s : State) : Host.Outcome State Fault Refusal := respond (.okOpcode s.header.opcode) s

/-- GET_AA: read `authoritativeAnswer` (R106). -/
def execGetAa (s : State) : Host.Outcome State Fault Refusal := respond (.okBool s.header.authoritativeAnswer) s

/-- GET_TC: read `truncated` (R107). -/
def execGetTc (s : State) : Host.Outcome State Fault Refusal := respond (.okBool s.header.truncated) s

/-- GET_RD: read `recursionDesired` (R108). -/
def execGetRd (s : State) : Host.Outcome State Fault Refusal := respond (.okBool s.header.recursionDesired) s

/-- GET_RA: read `recursionAvailable` (R109). -/
def execGetRa (s : State) : Host.Outcome State Fault Refusal := respond (.okBool s.header.recursionAvailable) s

/-- GET_RCODE: read `responseCode` (R110). -/
def execGetRcode (s : State) : Host.Outcome State Fault Refusal := respond (.okRcode s.header.responseCode) s

/-- GET_QUESTIONENTRIES: read `questionEntries` (R111). -/
def execGetQuestionEntries (s : State) : Host.Outcome State Fault Refusal := respond (.okWord s.header.questionEntries) s

/-- GET_ANSWERENTRIES: read `answerEntries` (R112). -/
def execGetAnswerEntries (s : State) : Host.Outcome State Fault Refusal := respond (.okWord s.header.answerEntries) s

/-- GET_AUTHORITYRECORDS: read `authorityRecords` (R113). -/
def execGetAuthorityRecords (s : State) : Host.Outcome State Fault Refusal := respond (.okWord s.header.authorityRecords) s

/-- GET_ADDITIONALRECORDS: read `additionalRecords` (R114). -/
def execGetAdditionalRecords (s : State) : Host.Outcome State Fault Refusal := respond (.okWord s.header.additionalRecords) s

end Sys2Proof.Machine
end

