-- ==== Sys2Proof/Machine/Set.lean ====
section
/-! DEFINITION. The meanings of the twelve SET commands (spec/40_header_access.md section 4). A SET writes one field of `H` from
`wdata` and changes nothing else; an operand that spells no value of the field makes the command illegal (R102). -/

namespace Sys2Proof.Machine

/-- SET_ID: `H.id <- trunc_16(wdata)`, every operand accepted (R115). -/
def execSetId (wdata : Operand) (s : State) : Host.Outcome State Fault Refusal :=
  respond .ok (s.setHeader (s.header.setId (trunc16 wdata)))

/-- SET_REQUEST: `H.request <- i2b(wdata[0])` where the operand is legal, else `IllegalCommand` (R116). -/
def execSetRequest (wdata : Operand) (s : State) : Host.Outcome State Fault Refusal :=
  withOperand (boolOperand wdata) s fun v => respond .ok (s.setHeader (s.header.setRequest v))

/-- SET_OPCODE: `H.opcode <- set(member with code wdata)` where the operand is legal, else `IllegalCommand` (R117). -/
def execSetOpcode (wdata : Operand) (s : State) : Host.Outcome State Fault Refusal :=
  withOperand (opcodeOperand wdata) s fun v => respond .ok (s.setHeader (s.header.setOpcode (some v)))

/-- SET_AA: `H.authoritativeAnswer <- i2b(wdata[0])` where the operand is legal, else `IllegalCommand` (R118). -/
def execSetAa (wdata : Operand) (s : State) : Host.Outcome State Fault Refusal :=
  withOperand (boolOperand wdata) s fun v => respond .ok (s.setHeader (s.header.setAuthoritativeAnswer v))

/-- SET_TC: `H.truncated <- i2b(wdata[0])` where the operand is legal, else `IllegalCommand` (R119). -/
def execSetTc (wdata : Operand) (s : State) : Host.Outcome State Fault Refusal :=
  withOperand (boolOperand wdata) s fun v => respond .ok (s.setHeader (s.header.setTruncated v))

/-- SET_RD: `H.recursionDesired <- i2b(wdata[0])` where the operand is legal, else `IllegalCommand` (R120). -/
def execSetRd (wdata : Operand) (s : State) : Host.Outcome State Fault Refusal :=
  withOperand (boolOperand wdata) s fun v => respond .ok (s.setHeader (s.header.setRecursionDesired v))

/-- SET_RA: `H.recursionAvailable <- i2b(wdata[0])` where the operand is legal, else `IllegalCommand` (R121). -/
def execSetRa (wdata : Operand) (s : State) : Host.Outcome State Fault Refusal :=
  withOperand (boolOperand wdata) s fun v => respond .ok (s.setHeader (s.header.setRecursionAvailable v))

/-- SET_RCODE: `H.responseCode <- set(member with code wdata)` where the operand is legal, else `IllegalCommand` (R122). -/
def execSetRcode (wdata : Operand) (s : State) : Host.Outcome State Fault Refusal :=
  withOperand (rcodeOperand wdata) s fun v => respond .ok (s.setHeader (s.header.setResponseCode (some v)))

/-- SET_QUESTIONENTRIES: `H.questionEntries <- trunc_16(wdata)`, every operand accepted (R123). -/
def execSetQuestionEntries (wdata : Operand) (s : State) : Host.Outcome State Fault Refusal :=
  respond .ok (s.setHeader (s.header.setQuestionEntries (trunc16 wdata)))

/-- SET_ANSWERENTRIES: `H.answerEntries <- trunc_16(wdata)`, every operand accepted (R124). -/
def execSetAnswerEntries (wdata : Operand) (s : State) : Host.Outcome State Fault Refusal :=
  respond .ok (s.setHeader (s.header.setAnswerEntries (trunc16 wdata)))

/-- SET_AUTHORITYRECORDS: `H.authorityRecords <- trunc_16(wdata)`, every operand accepted (R125). -/
def execSetAuthorityRecords (wdata : Operand) (s : State) : Host.Outcome State Fault Refusal :=
  respond .ok (s.setHeader (s.header.setAuthorityRecords (trunc16 wdata)))

/-- SET_ADDITIONALRECORDS: `H.additionalRecords <- trunc_16(wdata)`, every operand accepted (R126). -/
def execSetAdditionalRecords (wdata : Operand) (s : State) : Host.Outcome State Fault Refusal :=
  respond .ok (s.setHeader (s.header.setAdditionalRecords (trunc16 wdata)))

end Sys2Proof.Machine
end

