-- ==== Sys2Proof/Machine/Dispatch.lean ====
section
/-! DEFINITION. The dispatch: one arm per constructor of `Instr`, each one direct call of its meaning. -/

namespace Sys2Proof.Machine

def exec (i : Instr) (s : State) : Host.Outcome State Fault Refusal :=
  match i with
  -- control commands (class 0)
  | .clear => Sys2Proof.Machine.execClear s
  | .encode => Sys2Proof.Machine.execEncode s
  | .decode => Sys2Proof.Machine.execDecode s
  | .bycodeOpcode wdata => Sys2Proof.Machine.execBycodeOpcode wdata s
  | .bycodeRcode wdata => Sys2Proof.Machine.execBycodeRcode wdata s
  -- GET (class 1)
  | .getId => Sys2Proof.Machine.execGetId s
  | .getRequest => Sys2Proof.Machine.execGetRequest s
  | .getOpcode => Sys2Proof.Machine.execGetOpcode s
  | .getAa => Sys2Proof.Machine.execGetAa s
  | .getTc => Sys2Proof.Machine.execGetTc s
  | .getRd => Sys2Proof.Machine.execGetRd s
  | .getRa => Sys2Proof.Machine.execGetRa s
  | .getRcode => Sys2Proof.Machine.execGetRcode s
  | .getQuestionEntries => Sys2Proof.Machine.execGetQuestionEntries s
  | .getAnswerEntries => Sys2Proof.Machine.execGetAnswerEntries s
  | .getAuthorityRecords => Sys2Proof.Machine.execGetAuthorityRecords s
  | .getAdditionalRecords => Sys2Proof.Machine.execGetAdditionalRecords s
  -- SET (class 2)
  | .setId wdata => Sys2Proof.Machine.execSetId wdata s
  | .setRequest wdata => Sys2Proof.Machine.execSetRequest wdata s
  | .setOpcode wdata => Sys2Proof.Machine.execSetOpcode wdata s
  | .setAa wdata => Sys2Proof.Machine.execSetAa wdata s
  | .setTc wdata => Sys2Proof.Machine.execSetTc wdata s
  | .setRd wdata => Sys2Proof.Machine.execSetRd wdata s
  | .setRa wdata => Sys2Proof.Machine.execSetRa wdata s
  | .setRcode wdata => Sys2Proof.Machine.execSetRcode wdata s
  | .setQuestionEntries wdata => Sys2Proof.Machine.execSetQuestionEntries wdata s
  | .setAnswerEntries wdata => Sys2Proof.Machine.execSetAnswerEntries wdata s
  | .setAuthorityRecords wdata => Sys2Proof.Machine.execSetAuthorityRecords wdata s
  | .setAdditionalRecords wdata => Sys2Proof.Machine.execSetAdditionalRecords wdata s

end Sys2Proof.Machine
end

