-- ==== Sys2Proof/Machine/HostPort.lean ====
section
/-! DEFINITION. What the host does besides presenting a command: the reset input (spec/70_reset_and_hazards.md R200, R202) and its
changes of the byte source between commands (spec/20_memory.md R61). None of them produces a response. And what the block does
while the host does nothing. -/

namespace Sys2Proof.Machine

/-- With no command presented "the block is idle between commands and `H` holds its value" (spec/60_exceptions.md R196;
notes/assumptions/8.md). -/
def idle (s : State) : Host.Outcome State Fault Refusal := .next s

/-- The reset input: `H` becomes the empty Header, the response outputs are undefined again, `SRC` is not touched (R200, R202). -/
def resetBlock (s : State) : State := (s.setHeader Header.empty).setResponse none

/-- The host places bytes in `SRC.mem` (R61). -/
def hostWrite (a : Nat) (bs : List Byte) (s : State) : State :=
  s.setSrc { s.src with mem := s.src.mem.writeBytes a bs }

/-- The host sets `SRC.pos`; nothing stops it from breaking `SRC.pos ≤ SRC.lim` (R28, R61; U9). -/
def hostPos (p : Nat) (s : State) : State := s.setSrc { s.src with pos := p }

/-- The host sets `SRC.lim` (R61). -/
def hostLim (l : Nat) (s : State) : State := s.setSrc { s.src with lim := l }

end Sys2Proof.Machine
end

