-- ==== Sys2Proof/Machine/Present.lean ====
section
/-! DEFINITION. How each event of the host's schedule runs; a command goes through the decoder to its meaning. -/

namespace Sys2Proof.Machine

/-- One command: the decoded instruction's meaning, or `IllegalCommand` with no state change for a reserved command word
(spec/30_encoding.md R88, spec/60_exceptions.md R184). -/
def runCommand (c : Command) (s : State) : Host.Outcome State Fault Refusal :=
  match decode c with
  | .ok i => exec i s
  | .error _ => raise .illegalCommand s

/-- One event. A host act that is no command always succeeds and has no response (spec/70_reset_and_hazards.md R202, R215). -/
def runEvent (e : HostEvent) (s : State) : Host.Outcome State Fault Refusal :=
  match e with
  | .command c => runCommand c s
  | .reset => .next (resetBlock s)
  | .srcWrite a bs => .next (hostWrite a bs s)
  | .srcPos p => .next (hostPos p s)
  | .srcLim l => .next (hostLim l s)

end Sys2Proof.Machine
end

