-- ==== Sys2Proof/Machine/Step.lean ====
section
/-! DEFINITION. One step of the machine: the host's next act. The block has no program counter and fetches nothing (spec/10_state.md
R30): "commands arrive one at a time from the host", so the step takes the next event of the schedule that State holds, and
a command among them is one atomic transition (R12, R57). -/

namespace Sys2Proof.Machine

/-- One step: the next event of the host's schedule, run at the state in which it is no longer to come. -/
def step (s : State) : Host.Outcome State Fault Refusal :=
  match s.host with
  | [] => idle s
  | e :: rest => runEvent e (s.setHost rest)

/-- The state in which the host presents the command with these bits next, whatever else it does after (notes/assumptions/5.md). -/
def State.withFetchWord (s : State) (nbits w : Nat) : State :=
  s.setHost (.command (commandOfBits nbits w) :: s.host)

end Sys2Proof.Machine
end

