-- ==== Sys2Proof/Machine/Port.lean ====
section
/-! DEFINITION. The port-level image of a response (spec/10_state.md R33, spec/40_header_access.md R101, spec/60_exceptions.md
R180, R188): "a field not named as meaningful for a command is 0 in that command's response". -/

namespace Sys2Proof.Machine

/-- Every field 0: status 0 OK with no payload. -/
def ResponsePort.blank : ResponsePort where
  status := 0
  which := 0
  code := 0
  rvalid := 0
  rdata := 0
  bytes := Vector.replicate 12 0

/-- `rvalid` = 1 and a value read (R101). -/
def ResponsePort.value (v : U16) : ResponsePort := { ResponsePort.blank with rvalid := 1, rdata := v }

/-- `which`: 0 Opcode, 1 ResponseCode (R33). -/
def Enumeration.bit : Enumeration → BitVec 1
  | .opcode => 0
  | .responseCode => 1

/-- The record of an error: its status number, and `which` and `code` where it records them (R180, R188). -/
def Error.port : Error → ResponsePort
  | .invalidCode which code => { ResponsePort.blank with status := 1, which := which.bit, code := code }
  | .truncatedInput => { ResponsePort.blank with status := 2 }
  | .opcodeUnset => { ResponsePort.blank with status := 3 }
  | .illegalCommand => { ResponsePort.blank with status := 4 }

/-- The record at the output ports of a response (R33, R101, R144, R156). -/
def Response.port : Response → ResponsePort
  | .ok => ResponsePort.blank
  | .okWord v => ResponsePort.value v
  | .okBool b => ResponsePort.value (b2i b)
  | .okOpcode (some m) => ResponsePort.value ((opcodeCode m).setWidth 16)
  | .okOpcode none => ResponsePort.blank
  | .okRcode (some m) => ResponsePort.value ((rcodeCode m).setWidth 16)
  | .okRcode none => ResponsePort.blank
  | .okBytes b => { ResponsePort.blank with bytes := b }
  | .err e => e.port

/-- The output ports of the block: nothing a claim may read until the first command after reset has completed (R200). -/
def State.responsePort (s : State) : Option ResponsePort := s.response.map Response.port

end Sys2Proof.Machine
end

