-- ==== Sys2Proof/WellFormed.lean ====
section
/-! DEFINITION. Well-formed commands: the operand legality column of spec/30_encoding.md R85.

A well-formed command is one whose operand lies in that column. An ill-formed one is still a command the host can present:
it is answered with `IllegalCommand` (R88). -/

namespace Sys2Proof

/-- A boolean operand "must be 0 or 1" (R85, R102 (b); decision D9). -/
def Operand.isBool (w : Operand) : Bool := decide (w.toNat ≤ 1)

/-- An Opcode operand "must be 0, 1 or 2" (R85, R102 (c); decision D9). -/
def Operand.isOpcode (w : Operand) : Bool := decide (w.toNat ≤ 2)

/-- A ResponseCode operand "must be 0 to 5" (R85, R102 (c); decision D9). -/
def Operand.isRcode (w : Operand) : Bool := decide (w.toNat ≤ 5)

/-- A BYCODE operand "must be 0 to 15": a 4-bit code (R85; decision D19). -/
def Operand.isCode (w : Operand) : Bool := decide (w.toNat ≤ 15)

/-- The operand legality of every command (R85). -/
def Instr.wellFormed : Instr → Bool
  | .clear => true
  | .encode => true
  | .decode => true
  | .bycodeOpcode w => w.isCode
  | .bycodeRcode w => w.isCode
  | .getId => true
  | .getRequest => true
  | .getOpcode => true
  | .getAa => true
  | .getTc => true
  | .getRd => true
  | .getRa => true
  | .getRcode => true
  | .getQuestionEntries => true
  | .getAnswerEntries => true
  | .getAuthorityRecords => true
  | .getAdditionalRecords => true
  | .setId _ => true
  | .setRequest w => w.isBool
  | .setOpcode w => w.isOpcode
  | .setAa w => w.isBool
  | .setTc w => w.isBool
  | .setRd w => w.isBool
  | .setRa w => w.isBool
  | .setRcode w => w.isRcode
  | .setQuestionEntries _ => true
  | .setAnswerEntries _ => true
  | .setAuthorityRecords _ => true
  | .setAdditionalRecords _ => true

end Sys2Proof
end

