-- ==== Sys2Proof/Safety.lean ====
section
/-! DEFINITION. What counts as a safe state and a safe run of the block. -/

namespace Sys2Proof.Machine

/-- The invariant of the whole state: the memory of the byte source is in canonical form, and "the invariant
`SRC.pos <= SRC.lim`" of spec/10_state.md R28. What R36 says of `H` holds by the type of `Header`. -/
abbrev State.Inv (s : State) : Prop := s.src.mem.wf ∧ s.src.pos ≤ s.src.lim

/-- What the host must keep when it moves the position or the limit itself: `pos ≤ lim` (R28, R215). -/
def HostEvent.keepsLimit (e : HostEvent) (src : Source) : Prop :=
  match e with
  | .srcPos p => p ≤ src.lim
  | .srcLim l => src.pos ≤ l
  | .command _ => True
  | .reset => True
  | .srcWrite _ _ => True

/-- The host's next act keeps its side of R215. -/
def State.hostKeepsLimit (s : State) : Prop := ∀ e ∈ s.host.head?, e.keepsLimit s.src

/-- A run that never stops: after any number of steps there is a next state (R12, R214). -/
def NeverStops (s : State) : Prop := ∀ k, ∃ t, Host.Core.run Sys2Proof.core k s = .next t

/-- The machine at reset with a host about to do `evs`: how a program comes to run (notes/assumptions/5.md). -/
def State.atReset (evs : List HostEvent) : State := State.reset.setHost evs

/-- A state that some sequence of host acts leads to from reset (R36). -/
def Reachable (s : State) : Prop := ∃ evs k, Host.Core.run Sys2Proof.core k (State.atReset evs) = .next s

end Sys2Proof.Machine
end

