-- ==== Sys2Proof/Certificates/Slice0/Obligations.lean ====
section
/-! DEFINITION. The statements for the provers. First the vocabulary they share, written from the spec and not from the model's
own functions wherever that can be; then one `def Obligations.<Name> : Prop` for each statement.

A next state is written out as a record update of the state before, so each equation is also the frame: every field it does
not name, every byte of `SRC.mem` and the host's schedule among them, is as before. -/

namespace Sys2Proof.Machine.Vocabulary

/-- The command code table of R87, row by row, each row's instruction at the operand `w`. -/
def commandTable (w : Operand) : List (BitVec 8 × Instr) :=
  [(0x00, .clear), (0x01, .encode), (0x02, .decode), (0x03, .bycodeOpcode w), (0x04, .bycodeRcode w),
   (0x40, .getId), (0x41, .getRequest), (0x42, .getOpcode), (0x43, .getAa), (0x44, .getTc), (0x45, .getRd),
   (0x46, .getRa), (0x47, .getRcode), (0x48, .getQuestionEntries), (0x49, .getAnswerEntries), (0x4A, .getAuthorityRecords), (0x4B, .getAdditionalRecords),
   (0x80, .setId w), (0x81, .setRequest w), (0x82, .setOpcode w), (0x83, .setAa w), (0x84, .setTc w), (0x85, .setRd w),
   (0x86, .setRa w), (0x87, .setRcode w), (0x88, .setQuestionEntries w), (0x89, .setAnswerEntries w), (0x8A, .setAuthorityRecords w), (0x8B, .setAdditionalRecords w)]

/-- The 29 command words of R87. -/
def listedCws : List (BitVec 8) := (commandTable 0).map Prod.fst

/-- The legality column of R85, by command word: the largest legal operand where there is one. -/
def legalOperand (cw : BitVec 8) (w : Operand) : Prop :=
  if cw = 0x81 ∨ cw = 0x83 ∨ cw = 0x84 ∨ cw = 0x85 ∨ cw = 0x86 then w.toNat ≤ 1
  else if cw = 0x82 then w.toNat ≤ 2
  else if cw = 0x87 then w.toNat ≤ 5
  else if cw = 0x03 ∨ cw = 0x04 then w.toNat ≤ 15
  else True

/-- A command R88 does not call illegal: its word is listed and its operand legal. -/
def legalCommand (c : Command) : Prop := c.cw ∈ listedCws ∧ legalOperand c.cw c.wdata

/-- The response record of a success with no payload (R33). -/
def portOk : ResponsePort :=
  { status := 0, which := 0, code := 0, rvalid := 0, rdata := 0, bytes := #v[0, 0, 0, 0, 0, 0, 0, 0, 0, 0, 0, 0] }

/-- The response record of a GET or BYCODE that read the value `v` (R33, R101). -/
def portValue (v : U16) : ResponsePort := { portOk with rvalid := 1, rdata := v }

/-- The response record of an error with status number `n` that records nothing (R33, R188). -/
def portError (n : BitVec 3) : ResponsePort := { portOk with status := n }

/-- What a GET command is: decoded from its word whatever the operand, it answers `value` and changes nothing else; `port` is the
record at the ports (R101). -/
def IsGet (cw : BitVec 8) (i : Instr) (value : Header → Response) (port : Header → ResponsePort) : Prop :=
  (∀ w, decode ⟨cw, w⟩ = .ok i) ∧
  (∀ s, exec i s = .next { s with response := some (value s.header) }) ∧
  ∀ h, (value h).port = port h

/-- The state is one that reset or CLEAR has just left. -/
def JustEmptied (t : State) : Prop := t = State.reset ∨ ∃ s, exec .clear s = .next t

/-- What a SET of a 16-bit field is: any operand, the field receives `wdata mod 2^16` (R9, R102 (a)). -/
def IsSetWord (cw : BitVec 8) (i : Operand → Instr) (put : Header → U16 → Header) : Prop :=
  (∀ w, decode ⟨cw, w⟩ = .ok (i w)) ∧
  ∀ w s, exec (i w) s = .next { s with header := put s.header (BitVec.ofNat 16 w.toNat), response := some .ok }

/-- What a SET of a boolean field is: 0 and 1 are stored, and returned by the field's GET, and every other operand is an illegal
command (R102 (b)). -/
def IsSetBool (cw : BitVec 8) (i : Operand → Instr) (get : Instr) (put : Header → Bool → Header) : Prop :=
  (∀ w, decode ⟨cw, w⟩ = .ok (i w)) ∧
  (∀ s, exec (i 0) s = .next { s with header := put s.header false, response := some .ok }) ∧
  (∀ s, exec (i 1) s = .next { s with header := put s.header true, response := some .ok }) ∧
  (∀ b s t, exec (i (if b then 1 else 0)) s = .next t → exec get t = .next { t with response := some (.okBool b) }) ∧
  ∀ w s, 1 < w.toNat → exec (i w) s = .next { s with response := some (.err .illegalCommand) }

/-- The field a SET writes is never emitted: ENCODE answers the same before it and after it (R142). -/
def NotEmitted (i : Operand → Instr) : Prop :=
  ∀ w s t, exec (i w) s = .next t →
    ∃ r, exec .encode s = .next { s with response := some r } ∧ exec .encode t = .next { t with response := some r }

/-- Word `k` of the source bytes at the position, `b0 * 256 + b1` (R53, R153). -/
def sourceWord (s : State) (k : Nat) : U16 :=
  BitVec.ofNat 16
    ((s.src.mem.read (s.src.pos + 2 * k)).toNat * 256 + (s.src.mem.read (s.src.pos + 2 * k + 1)).toNat)

/-- `f[14:11]` of the flag word at the position. -/
def sourceOpcode (s : State) : U4 := (sourceWord s 1).extractLsb' 11 4

/-- `f[3:0]` of the flag word at the position. -/
def sourceRcode (s : State) : U4 := (sourceWord s 1).extractLsb' 0 4

/-- At least 12 bytes remain (R152). -/
def enoughBytes (s : State) : Prop := s.src.pos + 12 ≤ s.src.lim

/-- The Header that the bytes at the position decode to, once their codes name `m` and `r` (R74, R154). -/
def sourceHeader (s : State) (m : Opcode) (r : ResponseCode) : Header where
  id := sourceWord s 0
  request := !(sourceWord s 1).getLsbD 15
  opcode := some m
  authoritativeAnswer := (sourceWord s 1).getLsbD 10
  truncated := (sourceWord s 1).getLsbD 9
  recursionDesired := (sourceWord s 1).getLsbD 8
  recursionAvailable := (sourceWord s 1).getLsbD 7
  responseCode := some r
  questionEntries := sourceWord s 2
  answerEntries := sourceWord s 3
  authorityRecords := sourceWord s 4
  additionalRecords := sourceWord s 5

/-- The state with its position moved by `n`. -/
def movedBy (s : State) (n : Nat) : State := { s with src := { s.src with pos := s.src.pos + n } }

/-- The two bytes of a word, big-endian (R53). -/
def bigEndian (w : U16) : List Byte := [BitVec.ofNat 8 (w.toNat / 256), BitVec.ofNat 8 (w.toNat % 256)]

/-- The table of the twelve flag words ENCODE can emit (R141). -/
def flagTable : Bool → Opcode → Bool → U16
  | true, .query, false => 0x0000
  | true, .query, true => 0x0100
  | true, .iquery, false => 0x0800
  | true, .iquery, true => 0x0900
  | true, .status, false => 0x1000
  | true, .status, true => 0x1100
  | false, .query, false => 0x8000
  | false, .query, true => 0x8100
  | false, .iquery, false => 0x8800
  | false, .iquery, true => 0x8900
  | false, .status, false => 0x9000
  | false, .status, true => 0x9100

/-- The error a command must report, first match wins (R187), from the command and the state alone; none where it succeeds. -/
def expectedError (c : Command) (s : State) (e : Error) : Prop :=
  (¬ legalCommand c ∧ e = .illegalCommand) ∨
  (legalCommand c ∧
    ((c.cw = 0x02 ∧ ¬ enoughBytes s ∧ e = .truncatedInput) ∨
     (c.cw = 0x02 ∧ enoughBytes s ∧ 2 < (sourceOpcode s).toNat ∧ e = .invalidCode .opcode (sourceOpcode s)) ∨
     (c.cw = 0x02 ∧ enoughBytes s ∧ (sourceOpcode s).toNat ≤ 2 ∧ 5 < (sourceRcode s).toNat ∧
       e = .invalidCode .responseCode (sourceRcode s)) ∨
     (c.cw = 0x01 ∧ s.header.opcode = none ∧ e = .opcodeUnset) ∨
     (c.cw = 0x03 ∧ 2 < c.wdata.toNat ∧ e = .invalidCode .opcode (BitVec.ofNat 4 c.wdata.toNat)) ∨
     (c.cw = 0x04 ∧ 5 < c.wdata.toNat ∧ e = .invalidCode .responseCode (BitVec.ofNat 4 c.wdata.toNat))))

/-- The position after a command: DECODE moves it, by what its response says; nothing else does (R31). -/
def positionAfter (c : Command) (r : Response) (pos : Nat) : Nat :=
  if c.cw = 0x02 then
    match r with
    | .ok => pos + 12
    | .err (.invalidCode _ _) => pos + Config.invalidAdvance
    | .err .truncatedInput => pos
    | .err .opcodeUnset => pos
    | .err .illegalCommand => pos
    | .okWord _ => pos
    | .okBool _ => pos
    | .okOpcode _ => pos
    | .okRcode _ => pos
    | .okBytes _ => pos
  else pos

/-- The commands ENCODE and DECODE as the host presents them (R87). -/
def presentEncode : HostEvent := .command ⟨0x01, 0⟩
def presentDecode : HostEvent := .command ⟨0x02, 0⟩

end Sys2Proof.Machine.Vocabulary

open Sys2Proof Sys2Proof.Machine Sys2Proof.Machine.Vocabulary

/-! ## The command word and the step -/

/-- R87: the command code table is complete and exact. The codes are the spec's own decision D3. -/
def Obligations.CommandTableIsComplete : Prop :=
  ∀ w : Operand, (commandTable w).length = 29 ∧
    (∀ row ∈ commandTable w, decode ⟨row.1, w⟩ = .ok row.2) ∧
    ∀ cw, (∀ row ∈ commandTable w, row.1 ≠ cw) → ∃ e, decode ⟨cw, w⟩ = .error e

/-- Decode and encode agree in both directions. Every instruction, at every operand, is read back from its encoding; and whatever
the decoder reads is encoded by the word it was read from, with the operand it had unless the command ignores the operand
(R84 to R87). -/
def Obligations.DecodeAndEncodeAgree : Prop :=
  (∀ i : Instr, decode (encode i) = .ok i) ∧
  ∀ (c : Command) (i : Instr), decode c = .ok i →
    (encode i).cw = c.cw ∧
    ((encode i).wdata = c.wdata ∨ ((encode i).wdata = 0 ∧ ∀ w, decode ⟨c.cw, w⟩ = .ok i))

/-- R88, R184: a reserved command word or an illegal operand changes no state and answers with status 4. That these are errors at
all is the spec's own decision D25. -/
def Obligations.IllegalCommandsChangeNothing : Prop :=
  (∀ cw : BitVec 8, cw ∉ listedCws ↔
    (0x05 ≤ cw ∧ cw ≤ 0x3F) ∨ (0x4C ≤ cw ∧ cw ≤ 0x7F) ∨ (0x8C ≤ cw ∧ cw ≤ 0xFF)) ∧
  Error.illegalCommand.port = portError 4 ∧
  ∀ (s : State) (c : Command) (rest : List HostEvent), s.host = .command c :: rest → ¬ legalCommand c →
    step s = .next { s with host := rest, response := some (.err .illegalCommand) }

/-- A listed command with a legal operand is never answered with `IllegalCommand`: it is complete, with one response (R85). -/
def Obligations.LegalCommandsAreAccepted : Prop :=
  ∀ (s : State) (c : Command) (rest : List HostEvent), s.host = .command c :: rest → legalCommand c →
    ∃ t r, step s = .next t ∧ t.host = rest ∧ t.response = some r ∧ r ≠ .err .illegalCommand

/-- When the command the host presents decodes to `i`, the step is `exec` of `i` at the state in which that command is no longer
to come (the model's own convention for how a command arrives: notes/assumptions/5.md). -/
def Obligations.StepRunsTheDecodedCommand : Prop :=
  ∀ (s : State) (c : Command) (rest : List HostEvent) (i : Instr), s.host = .command c :: rest → decode c = .ok i →
    step s = exec i { s with host := rest }

/-- R12: every command, legal or not, in every state has exactly one outcome and one response, and nothing but the Header, the
position and the response can differ after it. -/
def Obligations.EveryCommandGetsOneResponse : Prop :=
  ∀ (s : State) (c : Command) (rest : List HostEvent), s.host = .command c :: rest →
    ∃ h pos r, step s = .next { header := h, src := { s.src with pos := pos }, host := rest, response := some r }

/-- No run of the block ever stops, from any state and whatever the host does: "none can hang or wait" (R214), and no error is a
trap (R188). -/
def Obligations.NoRunEverStops : Prop := ∀ s : State, NeverStops s

/-- The host's acts on the byte source and the idle step. The order of events in one schedule is the model's own convention
(notes/assumptions/5.md, notes/assumptions/8.md). -/
def Obligations.HostActsTouchOnlyTheSource : Prop :=
  (∀ s : State, s.host = [] → step s = .next s) ∧
  (∀ (s : State) p rest, s.host = .srcPos p :: rest →
    step s = .next { s with host := rest, src := { s.src with pos := p } }) ∧
  (∀ (s : State) l rest, s.host = .srcLim l :: rest →
    step s = .next { s with host := rest, src := { s.src with lim := l } }) ∧
  ∀ (s : State) a bs rest, s.host = .srcWrite a bs :: rest →
    ∃ m, step s = .next { s with host := rest, src := { s.src with mem := m } }

/-- What the host places in `SRC.mem` is read there, and every other address reads as before (R28, R61). -/
def Obligations.HostBytesLandInTheSource : Prop :=
  ∀ (s : State) a bs rest, s.src.mem.wf → s.host = .srcWrite a bs :: rest →
    ∃ t, step s = .next t ∧
      (∀ (k : Nat) (hk : k < bs.length), t.src.mem.read (a + k) = bs[k]) ∧
      ∀ x, (x < a ∨ a + bs.length ≤ x) → t.src.mem.read x = s.src.mem.read x

/-! ## Reset and CLEAR -/

/-- R200: the reset table, at the reset state and at the reset input in any state. The values are the spec's reading D17; the
reset state's own `SRC` is the model's choice (notes/assumptions/1.md) and is not stated here; the reset input leaves `SRC` as
the host has supplied it, and no response may be read until a command has completed. -/
def Obligations.ResetEmptiesTheHeader : Prop :=
  (∀ (s t : State) rest, s.host = .reset :: rest → step s = .next t → t.src = s.src) ∧
  ∀ t : State, (t = State.reset ∨ ∃ s rest, s.host = .reset :: rest ∧ step s = .next t) →
    t.header.id = 0x0000 ∧ t.header.request = false ∧ t.header.opcode = none ∧ t.header.opcodeSet = false ∧
    t.header.opcodeReg = 0 ∧ t.header.authoritativeAnswer = false ∧ t.header.truncated = false ∧
    t.header.recursionDesired = false ∧ t.header.recursionAvailable = false ∧ t.header.responseCode = none ∧
    t.header.rcodeSet = false ∧ t.header.rcodeReg = 0 ∧ t.header.questionEntries = 0x0000 ∧
    t.header.answerEntries = 0x0000 ∧ t.header.authorityRecords = 0x0000 ∧ t.header.additionalRecords = 0x0000 ∧
    t.responsePort = none

/-- R202: the reset input's only effect is the reset of the Header (and the response outputs are undefined again); it completes in
every state and leaves `SRC` alone. -/
def Obligations.ResetInputLeavesTheSource : Prop :=
  ∀ (s : State) rest, s.host = .reset :: rest →
    step s = .next { header := State.reset.header, src := s.src, host := rest, response := none }

/-- R100, R201: CLEAR, its word, its effect in every state, that the Header after it is the reset Header, and that no other command
returns an enumeration field to unset. Unlike reset it produces a response. The values are the spec's reading D17. -/
def Obligations.ClearConstructsAnEmptyHeader : Prop :=
  (∀ w, decode ⟨0x00, w⟩ = .ok .clear) ∧
  (∀ s : State, exec .clear s = .next { s with
    header := {
      id := 0, request := false, opcode := none, authoritativeAnswer := false, truncated := false,
      recursionDesired := false, recursionAvailable := false, responseCode := none, questionEntries := 0,
      answerEntries := 0, authorityRecords := 0, additionalRecords := 0 }
    response := some .ok }) ∧
  (∀ s t : State, exec .clear s = .next t → t.header = State.reset.header ∧ t.header.opcodeSet = false ∧
    t.header.rcodeSet = false ∧ t.header.opcodeReg = 0 ∧ t.header.rcodeReg = 0) ∧
  Response.ok.port = portOk ∧ State.reset.responsePort = none ∧
  ∀ (i : Instr) (s t : State), exec i s = .next t →
    (s.header.opcode ≠ none ∧ t.header.opcode = none) ∨ (s.header.responseCode ≠ none ∧ t.header.responseCode = none) →
    i = .clear

/-! ## GET -/

/-- R103, R111 to R114: the five GETs of 16-bit fields. -/
def Obligations.GetWordCommands : Prop :=
  IsGet 0x40 .getId (fun h => .okWord h.id) (fun h => portValue h.id) ∧
  IsGet 0x48 .getQuestionEntries (fun h => .okWord h.questionEntries) (fun h => portValue h.questionEntries) ∧
  IsGet 0x49 .getAnswerEntries (fun h => .okWord h.answerEntries) (fun h => portValue h.answerEntries) ∧
  IsGet 0x4A .getAuthorityRecords (fun h => .okWord h.authorityRecords) (fun h => portValue h.authorityRecords) ∧
  IsGet 0x4B .getAdditionalRecords (fun h => .okWord h.additionalRecords) (fun h => portValue h.additionalRecords) ∧
  ∀ t, JustEmptied t →
    exec .getId t = .next { t with response := some (.okWord 0x0000) } ∧
    exec .getQuestionEntries t = .next { t with response := some (.okWord 0x0000) } ∧
    exec .getAnswerEntries t = .next { t with response := some (.okWord 0x0000) } ∧
    exec .getAuthorityRecords t = .next { t with response := some (.okWord 0x0000) } ∧
    exec .getAdditionalRecords t = .next { t with response := some (.okWord 0x0000) }

/-- R104, R106 to R109: the five GETs of boolean fields; GET_REQUEST "returns the Header sense, not the wire sense". -/
def Obligations.GetBoolCommands : Prop :=
  IsGet 0x41 .getRequest (fun h => .okBool h.request) (fun h => portValue (if h.request then 1 else 0)) ∧
  IsGet 0x43 .getAa (fun h => .okBool h.authoritativeAnswer) (fun h => portValue (if h.authoritativeAnswer then 1 else 0)) ∧
  IsGet 0x44 .getTc (fun h => .okBool h.truncated) (fun h => portValue (if h.truncated then 1 else 0)) ∧
  IsGet 0x45 .getRd (fun h => .okBool h.recursionDesired) (fun h => portValue (if h.recursionDesired then 1 else 0)) ∧
  IsGet 0x46 .getRa (fun h => .okBool h.recursionAvailable) (fun h => portValue (if h.recursionAvailable then 1 else 0)) ∧
  ∀ t, JustEmptied t →
    exec .getRequest t = .next { t with response := some (.okBool false) } ∧
    exec .getAa t = .next { t with response := some (.okBool false) } ∧
    exec .getTc t = .next { t with response := some (.okBool false) } ∧
    exec .getRd t = .next { t with response := some (.okBool false) } ∧
    exec .getRa t = .next { t with response := some (.okBool false) }

/-- R105, R110: the two GETs of enumeration fields. Reading `unset` is no error but `rvalid` = 0 (the spec's decision D8), and
after a successful DECODE the field is always set. -/
def Obligations.GetEnumerationCommands : Prop :=
  IsGet 0x42 .getOpcode (fun h => .okOpcode h.opcode)
    (fun h => match h.opcode with
      | none => portOk
      | some .query => portValue 0
      | some .iquery => portValue 1
      | some .status => portValue 2) ∧
  IsGet 0x47 .getRcode (fun h => .okRcode h.responseCode)
    (fun h => match h.responseCode with
      | none => portOk
      | some .noError => portValue 0
      | some .formatError => portValue 1
      | some .serverFailure => portValue 2
      | some .nameError => portValue 3
      | some .notImplemented => portValue 4
      | some .refused => portValue 5) ∧
  (∀ t, JustEmptied t → exec .getOpcode t = .next { t with response := some (.okOpcode none) } ∧
    exec .getRcode t = .next { t with response := some (.okRcode none) }) ∧
  ∀ s t, exec .decode s = .next t → t.response = some .ok →
    ∃ m r, exec .getOpcode t = .next { t with response := some (.okOpcode (some m)) } ∧
      exec .getRcode t = .next { t with response := some (.okRcode (some r)) }

/-! ## SET -/

/-- R115, R123 to R126: the five SETs of 16-bit fields; every operand is accepted and cut to its low 16 bits. -/
def Obligations.SetWordCommands : Prop :=
  IsSetWord 0x80 .setId (fun h v => { h with id := v }) ∧
  IsSetWord 0x88 .setQuestionEntries (fun h v => { h with questionEntries := v }) ∧
  IsSetWord 0x89 .setAnswerEntries (fun h v => { h with answerEntries := v }) ∧
  IsSetWord 0x8A .setAuthorityRecords (fun h v => { h with authorityRecords := v }) ∧
  IsSetWord 0x8B .setAdditionalRecords (fun h v => { h with additionalRecords := v })

/-- R116, R118 to R121: the five SETs of boolean fields. That an operand above 1 is illegal is the spec's decision D9. -/
def Obligations.SetBoolCommands : Prop :=
  IsSetBool 0x81 .setRequest .getRequest (fun h v => { h with request := v }) ∧
  IsSetBool 0x83 .setAa .getAa (fun h v => { h with authoritativeAnswer := v }) ∧
  IsSetBool 0x84 .setTc .getTc (fun h v => { h with truncated := v }) ∧
  IsSetBool 0x85 .setRd .getRd (fun h v => { h with recursionDesired := v }) ∧
  IsSetBool 0x86 .setRa .getRa (fun h v => { h with recursionAvailable := v }) ∧
  NotEmitted .setAa ∧ NotEmitted .setTc ∧ NotEmitted .setRa

/-- R117: SET_OPCODE. It never consults `byCode`: an operand above 2 is `IllegalCommand`, not `InvalidCodeError` (D9).
It is what satisfies ENCODE's precondition. -/
def Obligations.SetOpcodeCommand : Prop :=
  (∀ w, decode ⟨0x82, w⟩ = .ok (.setOpcode w)) ∧
  (∀ s, exec (.setOpcode 0) s = .next { s with header := { s.header with opcode := some .query }, response := some .ok }) ∧
  (∀ s, exec (.setOpcode 1) s = .next { s with header := { s.header with opcode := some .iquery }, response := some .ok }) ∧
  (∀ s, exec (.setOpcode 2) s = .next { s with header := { s.header with opcode := some .status }, response := some .ok }) ∧
  (∀ w s, 2 < w.toNat → exec (.setOpcode w) s = .next { s with response := some (.err .illegalCommand) }) ∧
  ∀ w s t, w.toNat ≤ 2 → exec (.setOpcode w) s = .next t →
    t.header.opcodeSet = true ∧ t.header.opcodeReg = BitVec.ofNat 4 w.toNat ∧
      ∃ b, exec .encode t = .next { t with response := some (.okBytes b) }

/-- R122: SET_RCODE. It never consults `byCode`: an operand above 5 is `IllegalCommand`, not `InvalidCodeError` (D9). The value
is stored and returned by GET but never emitted by ENCODE. -/
def Obligations.SetRcodeCommand : Prop :=
  (∀ w, decode ⟨0x87, w⟩ = .ok (.setRcode w)) ∧
  (∀ s, exec (.setRcode 0) s = .next { s with header := { s.header with responseCode := some .noError }, response := some .ok }) ∧
  (∀ s, exec (.setRcode 1) s = .next { s with header := { s.header with responseCode := some .formatError }, response := some .ok }) ∧
  (∀ s, exec (.setRcode 2) s = .next { s with header := { s.header with responseCode := some .serverFailure }, response := some .ok }) ∧
  (∀ s, exec (.setRcode 3) s = .next { s with header := { s.header with responseCode := some .nameError }, response := some .ok }) ∧
  (∀ s, exec (.setRcode 4) s = .next { s with header := { s.header with responseCode := some .notImplemented }, response := some .ok }) ∧
  (∀ s, exec (.setRcode 5) s = .next { s with header := { s.header with responseCode := some .refused }, response := some .ok }) ∧
  (∀ w s, 5 < w.toNat → exec (.setRcode w) s = .next { s with response := some (.err .illegalCommand) }) ∧
  NotEmitted .setRcode ∧
  ∀ w s t, w.toNat ≤ 5 → exec (.setRcode w) s = .next t →
    t.header.rcodeSet = true ∧ t.header.rcodeReg = BitVec.ofNat 4 w.toNat ∧
      ∃ m, (rcodeCode m).toNat = w.toNat ∧ exec .getRcode t = .next { t with response := some (.okRcode (some m)) }

/-- Read after write, for every field and every legal operand: the GET of the field returns the stored image of the operand at the
ports, and the GET of every other field what it returned before (R127, which the spec derives from R100 to R102). -/
def Obligations.ReadAfterWriteOfEveryField : Prop :=
  ∀ (f : HeaderField) (w : Operand) (s : State), (f.setCmd w).wellFormed = true →
    ∃ t r, exec (f.setCmd w) s = .next t ∧ t.response = some .ok ∧
      exec f.getCmd t = .next { t with response := some r } ∧ r.port = portValue (BitVec.ofNat 16 w.toNat) ∧
      ∀ g, g ≠ f → ∃ r', exec g.getCmd t = .next { t with response := some r' } ∧
        exec g.getCmd s = .next { s with response := some r' }

/-! ## ENCODE -/

/-- R140, R144: ENCODE with the opcode set emits exactly the twelve bytes of the layout and changes nothing else. That it raises
`OpcodeUnsetError` with the opcode unset is the spec's own decision D7, as in `EncodeNeedsTheOpcode`; the record of a success
is its decisions D5 and D22. -/
def Obligations.EncodeEmitsTwelveBytes : Prop :=
  (∀ w, decode ⟨0x01, w⟩ = .ok .encode) ∧
  (∀ (s : State) (m : Opcode), s.header.opcode = some m →
    ∃ b : Bytes12, exec .encode s = .next { s with response := some (.okBytes b) } ∧
      b.toList = bigEndian s.header.id ++ bigEndian (flagTable s.header.request m s.header.recursionDesired) ++
        bigEndian s.header.questionEntries ++ bigEndian s.header.answerEntries ++
        bigEndian s.header.authorityRecords ++ bigEndian s.header.additionalRecords) ∧
  (∀ s : State, s.header.opcode = none → exec .encode s = .next { s with response := some (.err .opcodeUnset) }) ∧
  ∀ b : Bytes12, (Response.okBytes b).port = { portOk with bytes := b }

/-- ENCODE with the opcode unset: `OpcodeUnsetError`, status 3, `bytes` all zero, no state change; it is the only error ENCODE can
raise. The spec's own decision D7 (41_encode.md R145, 60_exceptions.md R183). -/
def Obligations.EncodeNeedsTheOpcode : Prop :=
  Error.opcodeUnset.port = portError 3 ∧
  (∀ s : State, s.header.opcode = none → exec .encode s = .next { s with response := some (.err .opcodeUnset) }) ∧
  (∀ (s t : State) (e : Error), exec .encode s = .next t → t.response = some (.err e) →
    e = .opcodeUnset ∧ s.header.opcode = none) ∧
  ∀ t, JustEmptied t → exec .encode t = .next { t with response := some (.err .opcodeUnset) }

/-- R141: the bit-packer's formula at every code, its terms on disjoint bits so that the or is a sum, and its table of twelve. -/
def Obligations.BitPackerFormulaAndTable : Prop :=
  (∀ (q : Bool) (c : U4) (rd : Bool),
    packFlags q c rd = ((if q then 0 else 1) <<< 15) ||| (BitVec.ofNat 16 c.toNat <<< 11) ||| ((if rd then 1 else 0) <<< 8) ∧
    (packFlags q c rd).toNat = (if q then 0 else 32768) + c.toNat * 2048 + (if rd then 256 else 0)) ∧
  ∀ (q : Bool) (m : Opcode) (rd : Bool), packFlags q (opcodeCode m) rd = flagTable q m rd

/-- R142: the bits of AA, TC, RA, Z and RCODE are emitted as 0 whatever `H` holds, and ENCODE does not read those four fields. -/
def Obligations.EncodeIgnoresResponseFields : Prop :=
  (∀ (s t : State) (b : Bytes12), exec .encode s = .next t → t.response = some (.okBytes b) →
    b[2] &&& 0x06 = 0 ∧ b[3] = 0) ∧
  ∀ (s : State) (aa tc ra : Bool) (rc : Option ResponseCode), ∃ r,
    exec .encode s = .next { s with response := some r } ∧
    exec .encode { s with header := { s.header with
      authoritativeAnswer := aa, truncated := tc, recursionAvailable := ra, responseCode := rc } } =
      .next { s with
        header := { s.header with
          authoritativeAnswer := aa, truncated := tc, recursionAvailable := ra, responseCode := rc }
        response := some r }

/-- R143: the byte layout, and that it is what six big-endian stores leave in the sink, whatever the sink held before: all twelve
bytes are written. -/
def Obligations.SixStoresMakeTheLayout : Prop :=
  (∀ w0 w1 w2 w3 w4 w5 : U16, (layout w0 w1 w2 w3 w4 w5).toList =
    bigEndian w0 ++ bigEndian w1 ++ bigEndian w2 ++ bigEndian w3 ++ bigEndian w4 ++ bigEndian w5) ∧
  ∀ (snk : Bytes12) (w0 w1 w2 w3 w4 w5 : U16), sixStores snk w0 w1 w2 w3 w4 w5 = layout w0 w1 w2 w3 w4 w5

/-- R146: ENCODE's response is a function of `H` alone, and a second ENCODE repeats it. -/
def Obligations.EncodeIsAFunctionOfTheHeader : Prop :=
  ∀ s s' : State, s.header = s'.header → ∃ r,
    exec .encode s = .next { s with response := some r } ∧ exec .encode s' = .next { s' with response := some r } ∧
    exec .encode { s with response := some r } = .next { s with response := some r }

/-! ## DECODE -/

/-- R151: the field mux-shifter, each part of the flag word by its shift and mask and by its bits. -/
def Obligations.MuxShifterSelectsTheParts : Prop :=
  ∀ f : U16,
    (flagField f .qr = (f >>> 15) &&& 0x1 ∧ flagField f .qr = if f.getLsbD 15 then 1 else 0) ∧
    (flagField f .opcode = (f >>> 11) &&& 0xF ∧ flagField f .opcode = (f.extractLsb' 11 4).setWidth 16) ∧
    (flagField f .aa = (f >>> 10) &&& 0x1 ∧ flagField f .aa = if f.getLsbD 10 then 1 else 0) ∧
    (flagField f .tc = (f >>> 9) &&& 0x1 ∧ flagField f .tc = if f.getLsbD 9 then 1 else 0) ∧
    (flagField f .rd = (f >>> 8) &&& 0x1 ∧ flagField f .rd = if f.getLsbD 8 then 1 else 0) ∧
    (flagField f .ra = (f >>> 7) &&& 0x1 ∧ flagField f .ra = if f.getLsbD 7 then 1 else 0) ∧
    (flagField f .rcode = (f >>> 0) &&& 0xF ∧ flagField f .rcode = (f.extractLsb' 0 4).setWidth 16) ∧
    ∀ (v : U16) (p : FlagPart), v &&& 0xFF8F = f &&& 0xFF8F → flagField v p = flagField f p

/-- R154, R156: with 12 bytes remaining and both codes legal, DECODE replaces all twelve fields together, sets both set bits, moves
the position by 12 and answers `ok` with no payload. -/
def Obligations.DecodeLoadsTheHeader : Prop :=
  (∀ w, decode ⟨0x02, w⟩ = .ok .decode) ∧
  (∀ (s : State) (m : Opcode) (r : ResponseCode), enoughBytes s → sourceOpcode s = opcodeCode m →
    sourceRcode s = rcodeCode r →
    exec .decode s = .next { movedBy s 12 with header := sourceHeader s m r, response := some .ok }) ∧
  (∀ s t : State, exec .decode s = .next t → t.response = some .ok →
    t.header.opcodeSet = true ∧ t.header.rcodeSet = true) ∧
  Response.ok.port = portOk

/-- R152, R182: fewer than 12 bytes remain, the limit below the position included (the spec's decision D16): `TruncatedInputError`
and no effect at all (D10), whatever the bytes are. -/
def Obligations.DecodeOfAShortSourceChangesNothing : Prop :=
  Error.truncatedInput.port = portError 2 ∧
  (∀ s : State, s.src.lim < s.src.pos + 12 → exec .decode s = .next { s with response := some (.err .truncatedInput) }) ∧
  ∀ (s t : State), s.src.pos + 12 ≤ s.src.lim → exec .decode s = .next t → t.response ≠ some (.err .truncatedInput)

/-- DECODE of an illegal code: the opcode is checked before the response code (the spec's decision D12), the error names the enumeration (D13)
and carries the offending value, `H` keeps every field, and the position moves by the OPEN parameter, whatever admissible value
that has (D11) (30_encoding.md section 4, 42_decode.md R155, R157, R158). -/
def Obligations.DecodeOfAnIllegalCodeLoadsNothing : Prop :=
  (∃ k ≤ 6, Config.invalidAdvance = 2 * k) ∧
  (∀ c : U4, (Error.invalidCode .opcode c).port = { portError 1 with which := 0, code := c }) ∧
  (∀ c : U4, (Error.invalidCode .responseCode c).port = { portError 1 with which := 1, code := c }) ∧
  (∀ s : State, enoughBytes s → 2 < (sourceOpcode s).toNat →
    exec .decode s = .next { movedBy s Config.invalidAdvance with
      response := some (.err (.invalidCode .opcode (sourceOpcode s))) }) ∧
  ∀ s : State, enoughBytes s → (sourceOpcode s).toNat ≤ 2 → 5 < (sourceRcode s).toNat →
    exec .decode s = .next { movedBy s Config.invalidAdvance with
      response := some (.err (.invalidCode .responseCode (sourceRcode s))) }

/-- A 12-byte sequence decodes without error exactly when `f[14:11] ≤ 2` and `f[3:0] ≤ 5` (R82, which the spec derives). -/
def Obligations.DecodeAcceptsExactlyTheLegalWords : Prop :=
  ∀ s : State, enoughBytes s → ∃ t, exec .decode s = .next t ∧
    (t.response = some .ok ↔ (sourceOpcode s).toNat ≤ 2 ∧ (sourceRcode s).toNat ≤ 5)

/-- Two sources that both decode load the same Header exactly when their six words agree but for the reserved bits `f[6:4]` (R82,
which the spec derives). -/
def Obligations.SameHeaderExactlyUpToReservedBits : Prop :=
  ∀ s s' t t' : State, exec .decode s = .next t → t.response = some .ok → exec .decode s' = .next t' →
    t'.response = some .ok →
    (t.header = t'.header ↔
      sourceWord s 0 = sourceWord s' 0 ∧ sourceWord s 1 &&& 0xFF8F = sourceWord s' 1 &&& 0xFF8F ∧
      sourceWord s 2 = sourceWord s' 2 ∧ sourceWord s 3 = sourceWord s' 3 ∧
      sourceWord s 4 = sourceWord s' 4 ∧ sourceWord s 5 = sourceWord s' 5)

/-- R159: the reserved bits are not inspected, not validated and not stored. The host changes bits 6:4 of the flag word in `SRC.mem`,
that is bits 6:4 of the byte at offset 3, and the DECODE after it ends the same way with the same Header and position. -/
def Obligations.ReservedBitsDoNotMatter : Prop :=
  ∀ (s t : State) (v : Byte), s.src.mem.wf →
    v &&& 0x8F = s.src.mem.read (s.src.pos + 3) &&& 0x8F → exec .decode s = .next t →
    ∃ t', exec .decode { s with src := { s.src with mem := s.src.mem.write (s.src.pos + 3) v } } = .next t' ∧
      t'.header = t.header ∧ t'.response = t.response ∧ t'.src.pos = t.src.pos ∧ t'.src.lim = t.src.lim

/-- R153: DECODE's outcome depends on the twelve bytes at `SRC.pos` and on nothing else of the source, wherever they lie and
whatever follows them; nor does it read `H`. -/
def Obligations.DecodeReadsTwelveBytesOnly : Prop :=
  ∀ s s' t t' : State, enoughBytes s → enoughBytes s' →
    (∀ k < 12, s.src.mem.read (s.src.pos + k) = s'.src.mem.read (s'.src.pos + k)) →
    exec .decode s = .next t → exec .decode s' = .next t' →
    t.response = t'.response ∧ (t.response = some .ok → t.header = t'.header) ∧
      t.src.pos - s.src.pos = t'.src.pos - s'.src.pos

/-! ## The enum validator -/

/-- R174, R175: the two BYCODE commands, in every outcome. -/
def Obligations.BycodeCommands : Prop :=
  (∀ w, decode ⟨0x03, w⟩ = .ok (.bycodeOpcode w)) ∧ (∀ w, decode ⟨0x04, w⟩ = .ok (.bycodeRcode w)) ∧
  (∀ w s, w.toNat ≤ 2 → ∃ m, (opcodeCode m).toNat = w.toNat ∧
    exec (.bycodeOpcode w) s = .next { s with response := some (.okOpcode (some m)) } ∧
    (Response.okOpcode (some m)).port = portValue (BitVec.ofNat 16 w.toNat)) ∧
  (∀ w s, 2 < w.toNat → w.toNat ≤ 15 →
    exec (.bycodeOpcode w) s = .next { s with response := some (.err (.invalidCode .opcode (BitVec.ofNat 4 w.toNat))) }) ∧
  (∀ w s, w.toNat ≤ 5 → ∃ m, (rcodeCode m).toNat = w.toNat ∧
    exec (.bycodeRcode w) s = .next { s with response := some (.okRcode (some m)) } ∧
    (Response.okRcode (some m)).port = portValue (BitVec.ofNat 16 w.toNat)) ∧
  (∀ w s, 5 < w.toNat → w.toNat ≤ 15 →
    exec (.bycodeRcode w) s =
      .next { s with response := some (.err (.invalidCode .responseCode (BitVec.ofNat 4 w.toNat))) }) ∧
  ∀ w s, 15 < w.toNat → exec (.bycodeOpcode w) s = .next { s with response := some (.err .illegalCommand) } ∧
    exec (.bycodeRcode w) s = .next { s with response := some (.err .illegalCommand) }

/-- R171, R172, R173: the two tables on all sixteen codes, the members' codes, and that lookup and code are inverse. -/
def Obligations.ByCodeTablesAndInverse : Prop :=
  (opcodeByCode 0 = .ok .query ∧ opcodeByCode 1 = .ok .iquery ∧ opcodeByCode 2 = .ok .status ∧
    ∀ c : U4, 2 < c.toNat → opcodeByCode c = .error (.invalidCode .opcode c)) ∧
  (rcodeByCode 0 = .ok .noError ∧ rcodeByCode 1 = .ok .formatError ∧ rcodeByCode 2 = .ok .serverFailure ∧
    rcodeByCode 3 = .ok .nameError ∧ rcodeByCode 4 = .ok .notImplemented ∧ rcodeByCode 5 = .ok .refused ∧
    ∀ c : U4, 5 < c.toNat → rcodeByCode c = .error (.invalidCode .responseCode c)) ∧
  (opcodeCode .query = 0 ∧ opcodeCode .iquery = 1 ∧ opcodeCode .status = 2) ∧
  (rcodeCode .noError = 0 ∧ rcodeCode .formatError = 1 ∧ rcodeCode .serverFailure = 2 ∧ rcodeCode .nameError = 3 ∧
    rcodeCode .notImplemented = 4 ∧ rcodeCode .refused = 5) ∧
  (∀ m, opcodeByCode (opcodeCode m) = .ok m) ∧ (∀ m, rcodeByCode (rcodeCode m) = .ok m) ∧
  (∀ c m, opcodeByCode c = .ok m → opcodeCode m = c) ∧ (∀ c m, rcodeByCode c = .ok m → rcodeCode m = c) ∧
  (∀ m m', opcodeCode m = opcodeCode m' → m = m') ∧ ∀ m m', rcodeCode m = rcodeCode m' → m = m'

/-! ## Rules about the whole machine -/

/-- R187: every command reports exactly the error the order of priority gives, and succeeds exactly where that names none. The place
of the opcode before the response code is the spec's decision D12. -/
def Obligations.ErrorsFollowThePriorityOrder : Prop :=
  ∀ (s : State) (c : Command) (rest : List HostEvent), s.host = .command c :: rest →
    ∃ t, step s = .next t ∧ ∀ e, t.response = some (.err e) ↔ expectedError c s e

/-- R188: a command that ends in an error changes nothing but the response, and the position where DECODE ends in
`InvalidCodeError`; the record carries the error's number and information and is 0 elsewhere. -/
def Obligations.ErrorsHaveNoOtherEffect : Prop :=
  (∀ (s t : State) (c : Command) (rest : List HostEvent) (e : Error), s.host = .command c :: rest → step s = .next t →
    t.response = some (.err e) →
    t = { s with
      host := rest
      response := some (.err e)
      src := { s.src with pos := positionAfter c (.err e) s.src.pos } }) ∧
  ∀ e : Error, (Response.err e).port = { portOk with
    status := match e with
      | .invalidCode _ _ => 1
      | .truncatedInput => 2
      | .opcodeUnset => 3
      | .illegalCommand => 4
    which := match e with
      | .invalidCode .responseCode _ => 1
      | .invalidCode .opcode _ => 0
      | .truncatedInput => 0
      | .opcodeUnset => 0
      | .illegalCommand => 0
    code := match e with
      | .invalidCode _ c => c
      | .truncatedInput => 0
      | .opcodeUnset => 0
      | .illegalCommand => 0 }

/-- R180: the complete list of outcomes: the status numbers (the spec's decision D5), 5 to 7 never produced, the commands that can
raise each error, and that CLEAR and the GET commands never fail. -/
def Obligations.OutcomesOfACommand : Prop :=
  (∀ r : Response, r.port.status.toNat ≤ 4 ∧ (r.port.status = 0 ↔ ∀ e, r ≠ .err e)) ∧
  (∀ w c, (Error.invalidCode w c).port.status = 1) ∧ Error.truncatedInput.port.status = 2 ∧
  Error.opcodeUnset.port.status = 3 ∧ Error.illegalCommand.port.status = 4 ∧
  (∀ (i : Instr) (s t : State) (e : Error), exec i s = .next t → t.response = some (.err e) →
    match e with
    | .invalidCode _ _ => i = .decode ∨ (∃ w, i = .bycodeOpcode w) ∨ ∃ w, i = .bycodeRcode w
    | .truncatedInput => i = .decode
    | .opcodeUnset => i = .encode
    | .illegalCommand => (∃ w, i = .bycodeOpcode w) ∨ (∃ w, i = .bycodeRcode w) ∨ ∃ f w, i = HeaderField.setCmd f w) ∧
  ∀ (s t : State) (e : Error), (exec .clear s = .next t ∨ ∃ f : HeaderField, exec f.getCmd s = .next t) →
    t.response ≠ some (.err e)

/-- R31: how each command changes `SRC`: DECODE alone moves the position, by what its outcome says, and no command changes the
memory or the limit. The moves on error are the spec's decisions D10 and D11. -/
def Obligations.OnlyDecodeMovesThePosition : Prop :=
  ∀ (s t : State) (c : Command) (rest : List HostEvent) (r : Response), s.host = .command c :: rest →
    step s = .next t → t.response = some r →
    t.src.mem = s.src.mem ∧ t.src.lim = s.src.lim ∧ t.src.pos = positionAfter c r s.src.pos

/-- The set bits: what sets them and what clears them, over all commands and the reset input (R27, its sentences on writing). -/
def Obligations.SetBitsAreClearedOnlyByClearAndReset : Prop :=
  (∀ (i : Instr) (s t : State), exec i s = .next t →
    t.header.opcodeSet = (match i with
      | .clear => false
      | .decode => s.header.opcodeSet || decide (t.response = some .ok)
      | .setOpcode w => s.header.opcodeSet || decide (w.toNat ≤ 2)
      | _ => s.header.opcodeSet) ∧
    t.header.rcodeSet = (match i with
      | .clear => false
      | .decode => s.header.rcodeSet || decide (t.response = some .ok)
      | .setRcode w => s.header.rcodeSet || decide (w.toNat ≤ 5)
      | _ => s.header.rcodeSet)) ∧
  ∀ s t : State, step s = .next t →
    (s.header.opcodeSet = true ∧ t.header.opcodeSet = false) ∨ (s.header.rcodeSet = true ∧ t.header.rcodeSet = false) →
    (∃ rest, s.host = .reset :: rest) ∨ ∃ w rest, s.host = .command ⟨0x00, w⟩ :: rest

/-- The block keeps no memory of an error or of any response: no command's effect depends on the last one's response (R33, R189). -/
def Obligations.ResponsesAreNotSticky : Prop :=
  ∀ (i : Instr) (s : State) (r : Option Response), exec i { s with response := r } = exec i s

/-- The host cannot write `H` except through SET, CLEAR, DECODE and reset, and cannot read it except through GET and ENCODE: no
other command's response, nor what it does to `SRC`, depends on `H` (R215, its last sentence). -/
def Obligations.HeaderIsReachedOnlyThroughItsCommands : Prop :=
  (∀ s t : State, step s = .next t → t.header ≠ s.header →
    (∃ rest, s.host = .reset :: rest) ∨
    ∃ c rest i, s.host = .command c :: rest ∧ decode c = .ok i ∧
      (i = .clear ∨ i = .decode ∨ ∃ f w, i = HeaderField.setCmd f w)) ∧
  ∀ (i : Instr) (s t t' : State) (h : Header), i ≠ .encode → (∀ f : HeaderField, i ≠ f.getCmd) →
    exec i s = .next t → exec i { s with header := h } = .next t' →
    t'.response = t.response ∧ t'.src = t.src

/-! ## Round trips -/

/-- Encode, place the bytes at the position, decode: the run answers `ok`, the position moves past the header, and the Header is
the one encoded with AA, TC and RA false and the response code NO_ERROR (R162, first direction). -/
def Obligations.EncodeThenDecodeGivesTheHeaderBack : Prop :=
  ∀ (s : State) (m : Opcode), s.src.mem.wf → enoughBytes s → s.header.opcode = some m →
    ∃ (b : Bytes12) (t : State),
      exec .encode s = .next { s with response := some (.okBytes b) } ∧
      Host.Core.run Sys2Proof.core 3 { s with host := [presentEncode, .srcWrite s.src.pos b.toList, presentDecode] } =
        .next t ∧
      t.response = some .ok ∧ t.src.pos = s.src.pos + 12 ∧
      t.header = { s.header with
        authoritativeAnswer := false, truncated := false, recursionAvailable := false, responseCode := some .noError }

/-- Decode then encode: the words come back with the flag word cut to QR, OPCODE and RD, so the original twelve bytes come back
exactly when bits 10, 9, 7, 6:4 and 3:0 of the flag word were all zero (R162, the other direction). -/
def Obligations.DecodeThenEncodeKeepsTheRequestSubset : Prop :=
  ∀ (s : State), enoughBytes s → (sourceOpcode s).toNat ≤ 2 → (sourceRcode s).toNat ≤ 5 →
    ∃ (b : Bytes12) (t : State),
      Host.Core.run Sys2Proof.core 2 { s with host := [presentDecode, presentEncode] } = .next t ∧
      t.response = some (.okBytes b) ∧
      b.toList = bigEndian (sourceWord s 0) ++ bigEndian (sourceWord s 1 &&& 0xF900) ++ bigEndian (sourceWord s 2) ++
        bigEndian (sourceWord s 3) ++ bigEndian (sourceWord s 4) ++ bigEndian (sourceWord s 5) ∧
      (b = s.src.memRead s.src.pos 12 ↔ sourceWord s 1 &&& 0x06FF = 0)

/-! ## Invariants -/

/-- Every step, from every state, keeps the memory of the byte source in canonical form, and keeps `SRC.pos ≤ SRC.lim` where the
host's own act does (R28). -/
def Obligations.StepKeepsTheSourceInvariant : Prop :=
  ∀ s t : State, s.src.mem.wf → step s = .next t →
    t.src.mem.wf ∧ (s.src.pos ≤ s.src.lim → s.hostKeepsLimit → t.src.pos ≤ t.src.lim)

/-- The invariant holds at reset, with any schedule before the machine. That `SRC` is empty there is the model's choice
(notes/assumptions/1.md). -/
def Obligations.ResetMeetsTheSourceInvariant : Prop := ∀ evs, (State.atReset evs).Inv

/-- Equal memories are equal data: two memories in canonical form that read the same at every address are the same list. The form is
the model's own (notes/assumptions/2.md). -/
def Obligations.CanonicalMemoriesAreEqualData : Prop :=
  ∀ m m' : Memory, m.wf → m'.wf → (∀ a, m.read a = m'.read a) → m = m'

/-- The register-level view of `H` obeys the state invariant in every state (R36, which the spec derives). -/
def Obligations.RegisterViewIsLegal : Prop :=
  ∀ h : Header,
    (h.opcodeSet = true → h.opcodeReg.toNat ≤ 2) ∧ (h.rcodeSet = true → h.rcodeReg.toNat ≤ 5) ∧
    (h.opcodeSet = false → h.opcodeReg = 0) ∧ (h.rcodeSet = false → h.rcodeReg = 0)

/-! ## Worked examples -/

/-- R148, the source's own example of encode: `12 34 01 00 00 01 00 00 00 00 00 00`. -/
def Obligations.EncodeOfTheSourceExample : Prop :=
  ∀ s : State, s.header.id = 0x1234 → s.header.request = true → s.header.opcode = some .query →
    s.header.recursionDesired = true → s.header.questionEntries = 1 → s.header.answerEntries = 0 →
    s.header.authorityRecords = 0 → s.header.additionalRecords = 0 →
    exec .encode s = .next { s with
      response := some (.okBytes #v[0x12, 0x34, 0x01, 0x00, 0x00, 0x01, 0x00, 0x00, 0x00, 0x00, 0x00, 0x00]) }

/-- The source's example of decode: twelve zero bytes, at any position (R160 (a)). -/
def Obligations.DecodeOfTwelveZeroBytes : Prop :=
  ∀ s : State, enoughBytes s → (∀ k < 12, s.src.mem.read (s.src.pos + k) = 0) →
    exec .decode s = .next { movedBy s 12 with
      header := {
        id := 0, request := true, opcode := some .query, authoritativeAnswer := false, truncated := false,
        recursionDesired := false, recursionAvailable := false, responseCode := some .noError, questionEntries := 0,
        answerEntries := 0, authorityRecords := 0, additionalRecords := 0 }
      response := some .ok }

/-- The empty Header is a response: CLEAR, SET_OPCODE QUERY, ENCODE from any state gives the flag word 0x8000 (R207, which the
spec derives). -/
def Obligations.EmptyHeaderEncodesAsAResponse : Prop :=
  ∀ s : State, ∃ t,
    Host.Core.run Sys2Proof.core 3 { s with host := [.command ⟨0x00, 0⟩, .command ⟨0x82, 0⟩, presentEncode] } = .next t ∧
    t.response = some (.okBytes #v[0, 0, 0x80, 0, 0, 0, 0, 0, 0, 0, 0, 0])
end

