-- ==== Sys2Proof/Laws/State.lean ====
section
/-! SUPPORT. One lemma per field per update of the state's records, each true by rfl, so that no proof unfolds an update. -/

namespace Sys2Proof.Machine

variable (h : Header) (s : State) (src : Source)

/-! ## The header register file -/

@[simp] theorem setId_id (v : U16) : (h.setId v).id = v := rfl
@[simp] theorem setId_request (v : U16) : (h.setId v).request = h.request := rfl
@[simp] theorem setId_opcode (v : U16) : (h.setId v).opcode = h.opcode := rfl
@[simp] theorem setId_authoritativeAnswer (v : U16) : (h.setId v).authoritativeAnswer = h.authoritativeAnswer := rfl
@[simp] theorem setId_truncated (v : U16) : (h.setId v).truncated = h.truncated := rfl
@[simp] theorem setId_recursionDesired (v : U16) : (h.setId v).recursionDesired = h.recursionDesired := rfl
@[simp] theorem setId_recursionAvailable (v : U16) : (h.setId v).recursionAvailable = h.recursionAvailable := rfl
@[simp] theorem setId_responseCode (v : U16) : (h.setId v).responseCode = h.responseCode := rfl
@[simp] theorem setId_questionEntries (v : U16) : (h.setId v).questionEntries = h.questionEntries := rfl
@[simp] theorem setId_answerEntries (v : U16) : (h.setId v).answerEntries = h.answerEntries := rfl
@[simp] theorem setId_authorityRecords (v : U16) : (h.setId v).authorityRecords = h.authorityRecords := rfl
@[simp] theorem setId_additionalRecords (v : U16) : (h.setId v).additionalRecords = h.additionalRecords := rfl

@[simp] theorem setRequest_id (v : Bool) : (h.setRequest v).id = h.id := rfl
@[simp] theorem setRequest_request (v : Bool) : (h.setRequest v).request = v := rfl
@[simp] theorem setRequest_opcode (v : Bool) : (h.setRequest v).opcode = h.opcode := rfl
@[simp] theorem setRequest_authoritativeAnswer (v : Bool) : (h.setRequest v).authoritativeAnswer = h.authoritativeAnswer := rfl
@[simp] theorem setRequest_truncated (v : Bool) : (h.setRequest v).truncated = h.truncated := rfl
@[simp] theorem setRequest_recursionDesired (v : Bool) : (h.setRequest v).recursionDesired = h.recursionDesired := rfl
@[simp] theorem setRequest_recursionAvailable (v : Bool) : (h.setRequest v).recursionAvailable = h.recursionAvailable := rfl
@[simp] theorem setRequest_responseCode (v : Bool) : (h.setRequest v).responseCode = h.responseCode := rfl
@[simp] theorem setRequest_questionEntries (v : Bool) : (h.setRequest v).questionEntries = h.questionEntries := rfl
@[simp] theorem setRequest_answerEntries (v : Bool) : (h.setRequest v).answerEntries = h.answerEntries := rfl
@[simp] theorem setRequest_authorityRecords (v : Bool) : (h.setRequest v).authorityRecords = h.authorityRecords := rfl
@[simp] theorem setRequest_additionalRecords (v : Bool) : (h.setRequest v).additionalRecords = h.additionalRecords := rfl

@[simp] theorem setOpcode_id (v : Option Opcode) : (h.setOpcode v).id = h.id := rfl
@[simp] theorem setOpcode_request (v : Option Opcode) : (h.setOpcode v).request = h.request := rfl
@[simp] theorem setOpcode_opcode (v : Option Opcode) : (h.setOpcode v).opcode = v := rfl
@[simp] theorem setOpcode_authoritativeAnswer (v : Option Opcode) : (h.setOpcode v).authoritativeAnswer = h.authoritativeAnswer := rfl
@[simp] theorem setOpcode_truncated (v : Option Opcode) : (h.setOpcode v).truncated = h.truncated := rfl
@[simp] theorem setOpcode_recursionDesired (v : Option Opcode) : (h.setOpcode v).recursionDesired = h.recursionDesired := rfl
@[simp] theorem setOpcode_recursionAvailable (v : Option Opcode) : (h.setOpcode v).recursionAvailable = h.recursionAvailable := rfl
@[simp] theorem setOpcode_responseCode (v : Option Opcode) : (h.setOpcode v).responseCode = h.responseCode := rfl
@[simp] theorem setOpcode_questionEntries (v : Option Opcode) : (h.setOpcode v).questionEntries = h.questionEntries := rfl
@[simp] theorem setOpcode_answerEntries (v : Option Opcode) : (h.setOpcode v).answerEntries = h.answerEntries := rfl
@[simp] theorem setOpcode_authorityRecords (v : Option Opcode) : (h.setOpcode v).authorityRecords = h.authorityRecords := rfl
@[simp] theorem setOpcode_additionalRecords (v : Option Opcode) : (h.setOpcode v).additionalRecords = h.additionalRecords := rfl

@[simp] theorem setAuthoritativeAnswer_id (v : Bool) : (h.setAuthoritativeAnswer v).id = h.id := rfl
@[simp] theorem setAuthoritativeAnswer_request (v : Bool) : (h.setAuthoritativeAnswer v).request = h.request := rfl
@[simp] theorem setAuthoritativeAnswer_opcode (v : Bool) : (h.setAuthoritativeAnswer v).opcode = h.opcode := rfl
@[simp] theorem setAuthoritativeAnswer_authoritativeAnswer (v : Bool) : (h.setAuthoritativeAnswer v).authoritativeAnswer = v := rfl
@[simp] theorem setAuthoritativeAnswer_truncated (v : Bool) : (h.setAuthoritativeAnswer v).truncated = h.truncated := rfl
@[simp] theorem setAuthoritativeAnswer_recursionDesired (v : Bool) : (h.setAuthoritativeAnswer v).recursionDesired = h.recursionDesired := rfl
@[simp] theorem setAuthoritativeAnswer_recursionAvailable (v : Bool) : (h.setAuthoritativeAnswer v).recursionAvailable = h.recursionAvailable := rfl
@[simp] theorem setAuthoritativeAnswer_responseCode (v : Bool) : (h.setAuthoritativeAnswer v).responseCode = h.responseCode := rfl
@[simp] theorem setAuthoritativeAnswer_questionEntries (v : Bool) : (h.setAuthoritativeAnswer v).questionEntries = h.questionEntries := rfl
@[simp] theorem setAuthoritativeAnswer_answerEntries (v : Bool) : (h.setAuthoritativeAnswer v).answerEntries = h.answerEntries := rfl
@[simp] theorem setAuthoritativeAnswer_authorityRecords (v : Bool) : (h.setAuthoritativeAnswer v).authorityRecords = h.authorityRecords := rfl
@[simp] theorem setAuthoritativeAnswer_additionalRecords (v : Bool) : (h.setAuthoritativeAnswer v).additionalRecords = h.additionalRecords := rfl

@[simp] theorem setTruncated_id (v : Bool) : (h.setTruncated v).id = h.id := rfl
@[simp] theorem setTruncated_request (v : Bool) : (h.setTruncated v).request = h.request := rfl
@[simp] theorem setTruncated_opcode (v : Bool) : (h.setTruncated v).opcode = h.opcode := rfl
@[simp] theorem setTruncated_authoritativeAnswer (v : Bool) : (h.setTruncated v).authoritativeAnswer = h.authoritativeAnswer := rfl
@[simp] theorem setTruncated_truncated (v : Bool) : (h.setTruncated v).truncated = v := rfl
@[simp] theorem setTruncated_recursionDesired (v : Bool) : (h.setTruncated v).recursionDesired = h.recursionDesired := rfl
@[simp] theorem setTruncated_recursionAvailable (v : Bool) : (h.setTruncated v).recursionAvailable = h.recursionAvailable := rfl
@[simp] theorem setTruncated_responseCode (v : Bool) : (h.setTruncated v).responseCode = h.responseCode := rfl
@[simp] theorem setTruncated_questionEntries (v : Bool) : (h.setTruncated v).questionEntries = h.questionEntries := rfl
@[simp] theorem setTruncated_answerEntries (v : Bool) : (h.setTruncated v).answerEntries = h.answerEntries := rfl
@[simp] theorem setTruncated_authorityRecords (v : Bool) : (h.setTruncated v).authorityRecords = h.authorityRecords := rfl
@[simp] theorem setTruncated_additionalRecords (v : Bool) : (h.setTruncated v).additionalRecords = h.additionalRecords := rfl

@[simp] theorem setRecursionDesired_id (v : Bool) : (h.setRecursionDesired v).id = h.id := rfl
@[simp] theorem setRecursionDesired_request (v : Bool) : (h.setRecursionDesired v).request = h.request := rfl
@[simp] theorem setRecursionDesired_opcode (v : Bool) : (h.setRecursionDesired v).opcode = h.opcode := rfl
@[simp] theorem setRecursionDesired_authoritativeAnswer (v : Bool) : (h.setRecursionDesired v).authoritativeAnswer = h.authoritativeAnswer := rfl
@[simp] theorem setRecursionDesired_truncated (v : Bool) : (h.setRecursionDesired v).truncated = h.truncated := rfl
@[simp] theorem setRecursionDesired_recursionDesired (v : Bool) : (h.setRecursionDesired v).recursionDesired = v := rfl
@[simp] theorem setRecursionDesired_recursionAvailable (v : Bool) : (h.setRecursionDesired v).recursionAvailable = h.recursionAvailable := rfl
@[simp] theorem setRecursionDesired_responseCode (v : Bool) : (h.setRecursionDesired v).responseCode = h.responseCode := rfl
@[simp] theorem setRecursionDesired_questionEntries (v : Bool) : (h.setRecursionDesired v).questionEntries = h.questionEntries := rfl
@[simp] theorem setRecursionDesired_answerEntries (v : Bool) : (h.setRecursionDesired v).answerEntries = h.answerEntries := rfl
@[simp] theorem setRecursionDesired_authorityRecords (v : Bool) : (h.setRecursionDesired v).authorityRecords = h.authorityRecords := rfl
@[simp] theorem setRecursionDesired_additionalRecords (v : Bool) : (h.setRecursionDesired v).additionalRecords = h.additionalRecords := rfl

@[simp] theorem setRecursionAvailable_id (v : Bool) : (h.setRecursionAvailable v).id = h.id := rfl
@[simp] theorem setRecursionAvailable_request (v : Bool) : (h.setRecursionAvailable v).request = h.request := rfl
@[simp] theorem setRecursionAvailable_opcode (v : Bool) : (h.setRecursionAvailable v).opcode = h.opcode := rfl
@[simp] theorem setRecursionAvailable_authoritativeAnswer (v : Bool) : (h.setRecursionAvailable v).authoritativeAnswer = h.authoritativeAnswer := rfl
@[simp] theorem setRecursionAvailable_truncated (v : Bool) : (h.setRecursionAvailable v).truncated = h.truncated := rfl
@[simp] theorem setRecursionAvailable_recursionDesired (v : Bool) : (h.setRecursionAvailable v).recursionDesired = h.recursionDesired := rfl
@[simp] theorem setRecursionAvailable_recursionAvailable (v : Bool) : (h.setRecursionAvailable v).recursionAvailable = v := rfl
@[simp] theorem setRecursionAvailable_responseCode (v : Bool) : (h.setRecursionAvailable v).responseCode = h.responseCode := rfl
@[simp] theorem setRecursionAvailable_questionEntries (v : Bool) : (h.setRecursionAvailable v).questionEntries = h.questionEntries := rfl
@[simp] theorem setRecursionAvailable_answerEntries (v : Bool) : (h.setRecursionAvailable v).answerEntries = h.answerEntries := rfl
@[simp] theorem setRecursionAvailable_authorityRecords (v : Bool) : (h.setRecursionAvailable v).authorityRecords = h.authorityRecords := rfl
@[simp] theorem setRecursionAvailable_additionalRecords (v : Bool) : (h.setRecursionAvailable v).additionalRecords = h.additionalRecords := rfl

@[simp] theorem setResponseCode_id (v : Option ResponseCode) : (h.setResponseCode v).id = h.id := rfl
@[simp] theorem setResponseCode_request (v : Option ResponseCode) : (h.setResponseCode v).request = h.request := rfl
@[simp] theorem setResponseCode_opcode (v : Option ResponseCode) : (h.setResponseCode v).opcode = h.opcode := rfl
@[simp] theorem setResponseCode_authoritativeAnswer (v : Option ResponseCode) : (h.setResponseCode v).authoritativeAnswer = h.authoritativeAnswer := rfl
@[simp] theorem setResponseCode_truncated (v : Option ResponseCode) : (h.setResponseCode v).truncated = h.truncated := rfl
@[simp] theorem setResponseCode_recursionDesired (v : Option ResponseCode) : (h.setResponseCode v).recursionDesired = h.recursionDesired := rfl
@[simp] theorem setResponseCode_recursionAvailable (v : Option ResponseCode) : (h.setResponseCode v).recursionAvailable = h.recursionAvailable := rfl
@[simp] theorem setResponseCode_responseCode (v : Option ResponseCode) : (h.setResponseCode v).responseCode = v := rfl
@[simp] theorem setResponseCode_questionEntries (v : Option ResponseCode) : (h.setResponseCode v).questionEntries = h.questionEntries := rfl
@[simp] theorem setResponseCode_answerEntries (v : Option ResponseCode) : (h.setResponseCode v).answerEntries = h.answerEntries := rfl
@[simp] theorem setResponseCode_authorityRecords (v : Option ResponseCode) : (h.setResponseCode v).authorityRecords = h.authorityRecords := rfl
@[simp] theorem setResponseCode_additionalRecords (v : Option ResponseCode) : (h.setResponseCode v).additionalRecords = h.additionalRecords := rfl

@[simp] theorem setQuestionEntries_id (v : U16) : (h.setQuestionEntries v).id = h.id := rfl
@[simp] theorem setQuestionEntries_request (v : U16) : (h.setQuestionEntries v).request = h.request := rfl
@[simp] theorem setQuestionEntries_opcode (v : U16) : (h.setQuestionEntries v).opcode = h.opcode := rfl
@[simp] theorem setQuestionEntries_authoritativeAnswer (v : U16) : (h.setQuestionEntries v).authoritativeAnswer = h.authoritativeAnswer := rfl
@[simp] theorem setQuestionEntries_truncated (v : U16) : (h.setQuestionEntries v).truncated = h.truncated := rfl
@[simp] theorem setQuestionEntries_recursionDesired (v : U16) : (h.setQuestionEntries v).recursionDesired = h.recursionDesired := rfl
@[simp] theorem setQuestionEntries_recursionAvailable (v : U16) : (h.setQuestionEntries v).recursionAvailable = h.recursionAvailable := rfl
@[simp] theorem setQuestionEntries_responseCode (v : U16) : (h.setQuestionEntries v).responseCode = h.responseCode := rfl
@[simp] theorem setQuestionEntries_questionEntries (v : U16) : (h.setQuestionEntries v).questionEntries = v := rfl
@[simp] theorem setQuestionEntries_answerEntries (v : U16) : (h.setQuestionEntries v).answerEntries = h.answerEntries := rfl
@[simp] theorem setQuestionEntries_authorityRecords (v : U16) : (h.setQuestionEntries v).authorityRecords = h.authorityRecords := rfl
@[simp] theorem setQuestionEntries_additionalRecords (v : U16) : (h.setQuestionEntries v).additionalRecords = h.additionalRecords := rfl

@[simp] theorem setAnswerEntries_id (v : U16) : (h.setAnswerEntries v).id = h.id := rfl
@[simp] theorem setAnswerEntries_request (v : U16) : (h.setAnswerEntries v).request = h.request := rfl
@[simp] theorem setAnswerEntries_opcode (v : U16) : (h.setAnswerEntries v).opcode = h.opcode := rfl
@[simp] theorem setAnswerEntries_authoritativeAnswer (v : U16) : (h.setAnswerEntries v).authoritativeAnswer = h.authoritativeAnswer := rfl
@[simp] theorem setAnswerEntries_truncated (v : U16) : (h.setAnswerEntries v).truncated = h.truncated := rfl
@[simp] theorem setAnswerEntries_recursionDesired (v : U16) : (h.setAnswerEntries v).recursionDesired = h.recursionDesired := rfl
@[simp] theorem setAnswerEntries_recursionAvailable (v : U16) : (h.setAnswerEntries v).recursionAvailable = h.recursionAvailable := rfl
@[simp] theorem setAnswerEntries_responseCode (v : U16) : (h.setAnswerEntries v).responseCode = h.responseCode := rfl
@[simp] theorem setAnswerEntries_questionEntries (v : U16) : (h.setAnswerEntries v).questionEntries = h.questionEntries := rfl
@[simp] theorem setAnswerEntries_answerEntries (v : U16) : (h.setAnswerEntries v).answerEntries = v := rfl
@[simp] theorem setAnswerEntries_authorityRecords (v : U16) : (h.setAnswerEntries v).authorityRecords = h.authorityRecords := rfl
@[simp] theorem setAnswerEntries_additionalRecords (v : U16) : (h.setAnswerEntries v).additionalRecords = h.additionalRecords := rfl

@[simp] theorem setAuthorityRecords_id (v : U16) : (h.setAuthorityRecords v).id = h.id := rfl
@[simp] theorem setAuthorityRecords_request (v : U16) : (h.setAuthorityRecords v).request = h.request := rfl
@[simp] theorem setAuthorityRecords_opcode (v : U16) : (h.setAuthorityRecords v).opcode = h.opcode := rfl
@[simp] theorem setAuthorityRecords_authoritativeAnswer (v : U16) : (h.setAuthorityRecords v).authoritativeAnswer = h.authoritativeAnswer := rfl
@[simp] theorem setAuthorityRecords_truncated (v : U16) : (h.setAuthorityRecords v).truncated = h.truncated := rfl
@[simp] theorem setAuthorityRecords_recursionDesired (v : U16) : (h.setAuthorityRecords v).recursionDesired = h.recursionDesired := rfl
@[simp] theorem setAuthorityRecords_recursionAvailable (v : U16) : (h.setAuthorityRecords v).recursionAvailable = h.recursionAvailable := rfl
@[simp] theorem setAuthorityRecords_responseCode (v : U16) : (h.setAuthorityRecords v).responseCode = h.responseCode := rfl
@[simp] theorem setAuthorityRecords_questionEntries (v : U16) : (h.setAuthorityRecords v).questionEntries = h.questionEntries := rfl
@[simp] theorem setAuthorityRecords_answerEntries (v : U16) : (h.setAuthorityRecords v).answerEntries = h.answerEntries := rfl
@[simp] theorem setAuthorityRecords_authorityRecords (v : U16) : (h.setAuthorityRecords v).authorityRecords = v := rfl
@[simp] theorem setAuthorityRecords_additionalRecords (v : U16) : (h.setAuthorityRecords v).additionalRecords = h.additionalRecords := rfl

@[simp] theorem setAdditionalRecords_id (v : U16) : (h.setAdditionalRecords v).id = h.id := rfl
@[simp] theorem setAdditionalRecords_request (v : U16) : (h.setAdditionalRecords v).request = h.request := rfl
@[simp] theorem setAdditionalRecords_opcode (v : U16) : (h.setAdditionalRecords v).opcode = h.opcode := rfl
@[simp] theorem setAdditionalRecords_authoritativeAnswer (v : U16) : (h.setAdditionalRecords v).authoritativeAnswer = h.authoritativeAnswer := rfl
@[simp] theorem setAdditionalRecords_truncated (v : U16) : (h.setAdditionalRecords v).truncated = h.truncated := rfl
@[simp] theorem setAdditionalRecords_recursionDesired (v : U16) : (h.setAdditionalRecords v).recursionDesired = h.recursionDesired := rfl
@[simp] theorem setAdditionalRecords_recursionAvailable (v : U16) : (h.setAdditionalRecords v).recursionAvailable = h.recursionAvailable := rfl
@[simp] theorem setAdditionalRecords_responseCode (v : U16) : (h.setAdditionalRecords v).responseCode = h.responseCode := rfl
@[simp] theorem setAdditionalRecords_questionEntries (v : U16) : (h.setAdditionalRecords v).questionEntries = h.questionEntries := rfl
@[simp] theorem setAdditionalRecords_answerEntries (v : U16) : (h.setAdditionalRecords v).answerEntries = h.answerEntries := rfl
@[simp] theorem setAdditionalRecords_authorityRecords (v : U16) : (h.setAdditionalRecords v).authorityRecords = h.authorityRecords := rfl
@[simp] theorem setAdditionalRecords_additionalRecords (v : U16) : (h.setAdditionalRecords v).additionalRecords = v := rfl

/-! ## The state -/

@[simp] theorem setHeader_header (x : Header) : (s.setHeader x).header = x := rfl
@[simp] theorem setHeader_src (x : Header) : (s.setHeader x).src = s.src := rfl
@[simp] theorem setHeader_host (x : Header) : (s.setHeader x).host = s.host := rfl
@[simp] theorem setHeader_response (x : Header) : (s.setHeader x).response = s.response := rfl

@[simp] theorem setSrc_header (x : Source) : (s.setSrc x).header = s.header := rfl
@[simp] theorem setSrc_src (x : Source) : (s.setSrc x).src = x := rfl
@[simp] theorem setSrc_host (x : Source) : (s.setSrc x).host = s.host := rfl
@[simp] theorem setSrc_response (x : Source) : (s.setSrc x).response = s.response := rfl

@[simp] theorem setHost_header (x : List HostEvent) : (s.setHost x).header = s.header := rfl
@[simp] theorem setHost_src (x : List HostEvent) : (s.setHost x).src = s.src := rfl
@[simp] theorem setHost_host (x : List HostEvent) : (s.setHost x).host = x := rfl
@[simp] theorem setHost_response (x : List HostEvent) : (s.setHost x).response = s.response := rfl

@[simp] theorem setResponse_header (x : Option Response) : (s.setResponse x).header = s.header := rfl
@[simp] theorem setResponse_src (x : Option Response) : (s.setResponse x).src = s.src := rfl
@[simp] theorem setResponse_host (x : Option Response) : (s.setResponse x).host = s.host := rfl
@[simp] theorem setResponse_response (x : Option Response) : (s.setResponse x).response = x := rfl

/-! ## The byte source -/

@[simp] theorem advance_mem (n : Nat) : (src.advance n).mem = src.mem := rfl
@[simp] theorem advance_pos (n : Nat) : (src.advance n).pos = src.pos + n := rfl
@[simp] theorem advance_lim (n : Nat) : (src.advance n).lim = src.lim := rfl

/-! ## The reset state -/

@[simp] theorem reset_header : State.reset.header = Header.empty := rfl
@[simp] theorem reset_src : State.reset.src = { mem := [], pos := 0, lim := 0 } := rfl
@[simp] theorem reset_host : State.reset.host = [] := rfl
@[simp] theorem reset_response : State.reset.response = none := rfl

end Sys2Proof.Machine
end

