-- ==== Sys2Proof/Laws/Memory.lean ====
section
/-! SUPPORT. The laws of the byte source's memory: a write is read back, leaves every other address alone and keeps the
canonical form. -/

namespace Sys2Proof.Machine

/-- An address below every listed one is unlisted. -/
theorem read_below (m : Memory) (a : Nat) (h : ∀ c ∈ m, a < c.1) : m.read a = Config.blankByte := by
  induction m with
  | nil => rfl
  | cons c m ih =>
    have hc := h c (by simp)
    simp only [Memory.read, if_neg (show a ≠ c.1 by omega)]
    exact ih fun d hd => h d (by simp [hd])

/-- The canonical form of a nonempty memory, by its first cell. -/
theorem wf_cons (c : Host.Cell) (m : Memory) :
    Memory.wf (c :: m) ↔ (∀ d ∈ m, c.1 < d.1) ∧ c.2 ≠ Config.blankByte ∧ Memory.wf m := by
  simp only [Memory.wf, List.map_cons, List.pairwise_cons, List.mem_map, List.mem_cons, forall_eq_or_imp,
    forall_exists_index, and_imp, forall_apply_eq_imp_iff₂]
  tauto

/-- The cells of a memory after a write are old cells or the one written. -/
theorem mem_write (m : Memory) (a : Nat) (v : Byte) (c : Host.Cell) (h : c ∈ m.write a v) : c ∈ m ∨ c = (a, v) := by
  induction m with
  | nil =>
    simp only [Memory.write] at h
    split at h <;> simp_all
  | cons d m ih =>
    simp only [Memory.write] at h
    split_ifs at h <;> simp_all <;> tauto

/-- A write keeps the canonical form. -/
theorem wf_write (m : Memory) (a : Nat) (v : Byte) (h : m.wf) : (m.write a v).wf := by
  induction m with
  | nil =>
    simp only [Memory.write]
    split_ifs with hv
    · exact h
    · simp [Memory.wf, hv]
  | cons c m ih =>
    obtain ⟨hlt, hb, hm⟩ := (wf_cons c m).mp h
    simp only [Memory.write]
    split_ifs with h1 h2 h3 h4
    · exact h
    · refine (wf_cons _ _).mpr ⟨?_, h2, h⟩
      intro d hd
      rcases List.mem_cons.mp hd with rfl | hd
      · exact h1
      · exact lt_trans h1 (hlt d hd)
    · exact hm
    · exact (wf_cons _ _).mpr ⟨fun d hd => h3 ▸ hlt d hd, h4, hm⟩
    · refine (wf_cons _ _).mpr ⟨fun d hd => ?_, hb, ih hm⟩
      rcases mem_write m a v d hd with hd | rfl
      · exact hlt d hd
      · exact lt_of_le_of_ne (by simpa using h1) (fun e => h3 e.symm)

/-- A write is read back (needs the canonical form: a removed cell must not uncover a second one). -/
theorem read_write_same (m : Memory) (a : Nat) (v : Byte) (h : m.wf) : (m.write a v).read a = v := by
  induction m with
  | nil => by_cases hv : v = Config.blankByte <;> simp [Memory.write, Memory.read, hv]
  | cons c m ih =>
    obtain ⟨hlt, -, hm⟩ := (wf_cons c m).mp h
    simp only [Memory.write]
    split_ifs with h1 h2 h3 h4
    · rw [h2, read_below]
      intro d hd
      rcases List.mem_cons.mp hd with rfl | hd
      · exact h1
      · exact lt_trans h1 (hlt d hd)
    · simp [Memory.read]
    · rw [h4, read_below _ _ fun d hd => h3 ▸ hlt d hd]
    · simp [Memory.read]
    · simp [Memory.read, h3, ih hm]

/-- A write leaves every other address alone. -/
theorem read_write_other (m : Memory) (a x : Nat) (v : Byte) (hx : x ≠ a) : (m.write a v).read x = m.read x := by
  induction m with
  | nil => by_cases hv : v = Config.blankByte <;> simp [Memory.write, Memory.read, hv, hx]
  | cons c m ih =>
    simp only [Memory.write]
    split_ifs with h1 h2 h3 h4
    · rfl
    · simp [Memory.read, hx]
    · simp [Memory.read, h3 ▸ hx]
    · simp [Memory.read, hx, h3 ▸ hx]
    · simp [Memory.read, ih]

/-- Placing a run of bytes keeps the canonical form. -/
theorem wf_writeBytes (bs : List Byte) (m : Memory) (a : Nat) (h : m.wf) : (m.writeBytes a bs).wf := by
  induction bs generalizing m a with
  | nil => exact h
  | cons b bs ih => exact ih _ _ (wf_write m a b h)

/-- Placing a run of bytes leaves the addresses below it alone. -/
theorem read_writeBytes_below (bs : List Byte) (m : Memory) (a x : Nat) (hx : x < a) :
    (m.writeBytes a bs).read x = m.read x := by
  induction bs generalizing m a with
  | nil => rfl
  | cons b bs ih =>
    rw [Memory.writeBytes, ih _ _ (by omega), read_write_other _ _ _ _ (by omega)]

/-- What a memory reads as once a run of bytes has been placed: the run inside it, the old bytes outside. -/
theorem read_writeBytes (bs : List Byte) (m : Memory) (a x : Nat) (h : m.wf) :
    (m.writeBytes a bs).read x = if a ≤ x then (bs[x - a]?).getD (m.read x) else m.read x := by
  induction bs generalizing m a with
  | nil => simp [Memory.writeBytes]
  | cons b bs ih =>
    rw [Memory.writeBytes, ih _ _ (wf_write m a b h)]
    rcases lt_trichotomy a x with hlt | rfl | hgt
    · obtain ⟨k, rfl⟩ : ∃ k, x = a + 1 + k := ⟨x - (a + 1), by omega⟩
      rw [if_pos (by omega), if_pos (by omega), read_write_other _ _ _ _ (by omega)]
      simp [show a + 1 + k - a = k + 1 by omega]
    · simp [read_write_same _ _ _ h]
    · rw [if_neg (by omega), if_neg (by omega), read_write_other _ _ _ _ (by omega)]

/-- Byte `i` of `MemRead(SRC, a, n)` is the byte at `a + i`. -/
@[simp] theorem getElem_memRead (src : Source) (a n i : Nat) (h : i < n) : (src.memRead a n)[i] = src.mem.read (a + i) := by
  simp [Source.memRead]

end Sys2Proof.Machine
end

