-- ==== Sys2Proof/Laws/Ops.lean ====
section
/-! SUPPORT. What the shared operations can do, once for each: byte order, ending a command, the operand forms. -/

namespace Sys2Proof.Machine

/-! ## Byte order -/

/-- `be16` in numbers (R53). -/
theorem be16_toNat (a b : Byte) : (be16 a b).toNat = a.toNat * 256 + b.toNat := by
  have h : (be16 a b).toNat = (a.toNat <<< 8) ||| b.toNat := by
    simp [be16, Nat.shiftLeft_eq, Nat.mod_eq_of_lt (show b.toNat < 65536 by omega),
      Nat.mod_eq_of_lt (show a.toNat * 256 < 65536 by omega)]
  rw [h, Nat.shiftLeft_eq, Nat.mul_comm, ← Nat.two_pow_add_eq_or_of_lt b.isLt a.toNat]

/-- `hi8` in numbers (R53). -/
theorem hi8_toNat (w : U16) : (hi8 w).toNat = w.toNat / 256 := by
  simp [hi8, Nat.shiftRight_eq_div_pow]
  omega

/-- `lo8` in numbers (R53). -/
theorem lo8_toNat (w : U16) : (lo8 w).toNat = w.toNat % 256 := by
  simp [lo8]

/-- The two bytes of a word make it up again (R53). -/
@[simp] theorem be16_hi8_lo8 (w : U16) : be16 (hi8 w) (lo8 w) = w := by
  apply BitVec.eq_of_toNat_eq
  rw [be16_toNat, hi8_toNat, lo8_toNat]
  omega

/-- The high byte of two bytes put together is the first (R53). -/
@[simp] theorem hi8_be16 (a b : Byte) : hi8 (be16 a b) = a := by
  apply BitVec.eq_of_toNat_eq
  rw [hi8_toNat, be16_toNat]
  omega

/-- The low byte of two bytes put together is the second (R53). -/
@[simp] theorem lo8_be16 (a b : Byte) : lo8 (be16 a b) = b := by
  apply BitVec.eq_of_toNat_eq
  rw [lo8_toNat, be16_toNat]
  omega

/-- A word is its two bytes (R53). -/
theorem be16_inj (a b c d : Byte) : be16 a b = be16 c d ↔ a = c ∧ b = d := by
  constructor
  · intro h
    exact ⟨by simpa using congrArg hi8 h, by simpa using congrArg lo8 h⟩
  · rintro ⟨rfl, rfl⟩; rfl

/-! ## Ending a command -/

/-- `respond` answers exactly one next state, in which only the response differs. -/
@[simp] theorem respond_eq_next (r : Response) (s t : State) : respond r s = .next t ↔ t = s.setResponse (some r) := by
  simp only [respond, Host.Outcome.next.injEq]
  exact eq_comm

/-- `raise` answers exactly one next state, in which only the response differs (R188). -/
@[simp] theorem raise_eq_next (e : Error) (s t : State) : raise e s = .next t ↔ t = s.setResponse (some (.err e)) :=
  respond_eq_next _ _ _

/-- A command with an operand check runs on the operand's value, or is answered with `IllegalCommand`. -/
theorem withOperand_eq_next {α : Type} (o : Option α) (s t : State) (run : α → Host.Outcome State Fault Refusal) :
    withOperand o s run = .next t ↔
      (∃ v, o = some v ∧ run v = .next t) ∨ (o = none ∧ t = s.setResponse (some (.err .illegalCommand))) := by
  cases o <;> simp [withOperand]

/-! ## The operand forms: each gives a value exactly where the operand is legal -/

/-- Every operand up to `n` is one of the first `n + 1` numbers. -/
theorem operand_cases (w : Operand) (n : Nat) (h : w.toNat ≤ n) : ∃ k ≤ n, w = BitVec.ofNat 32 k :=
  ⟨w.toNat, h, by simp⟩

theorem boolOperand_isSome (w : Operand) : (boolOperand w).isSome = w.isBool := by
  simp only [boolOperand, Operand.isBool]
  split <;> (simp_all; try omega)

theorem opcodeOperand_isSome (w : Operand) : (opcodeOperand w).isSome = w.isOpcode := by
  simp only [opcodeOperand, Operand.isOpcode]
  split <;> (simp_all; try omega)

theorem rcodeOperand_isSome (w : Operand) : (rcodeOperand w).isSome = w.isRcode := by
  simp only [rcodeOperand, Operand.isRcode]
  split <;> (simp_all; try omega)

theorem codeOperand_isSome (w : Operand) : (codeOperand w).isSome = w.isCode := by
  simp only [codeOperand, Operand.isCode]
  split <;> simp_all

/-- The boolean operands are 0 and 1. -/
theorem boolOperand_eq_some (w : Operand) (b : Bool) : boolOperand w = some b ↔ w = if b then 1 else 0 := by
  simp only [boolOperand]
  split <;> cases b <;> simp_all [← BitVec.toNat_inj]

end Sys2Proof.Machine
end

