-- ==== Sys2Proof/Laws/PerInstr.lean ====
section
/-! SUPPORT. Statements about every command as syntax, one lemma for each constructor of `Instr`. -/

namespace Sys2Proof.Laws

/-- The format of R84 on the command word the encoder gives: `cw[5:4]` is 0b00, the class is not the reserved 3, and the
function number or field selector is one the format allows: at most 4 in class 0, at most 11 in classes 1 and 2 (R84, R86). -/
def CwFormat.Statement (i : Instr) : Prop :=
  cwZero (Sys2Proof.encode i).cw = 0 ∧ cwClass (Sys2Proof.encode i).cw ≠ 3 ∧
    (cwSel (Sys2Proof.encode i).cw).toNat ≤ if cwClass (Sys2Proof.encode i).cw = 0 then 4 else 11

/-- The format is a fact about the command word alone. -/
theorem cwFormat_of_cw {i : Instr} (cw : BitVec 8) (hi : (Sys2Proof.encode i).cw = cw)
    (h : cwZero cw = 0 ∧ cwClass cw ≠ 3 ∧ (cwSel cw).toNat ≤ if cwClass cw = 0 then 4 else 11) : CwFormat.Statement i := by
  unfold CwFormat.Statement
  rw [hi]
  exact h

theorem CwFormat.clear : CwFormat.Statement .clear := cwFormat_of_cw 0x00 rfl (by decide)
theorem CwFormat.encode : CwFormat.Statement .encode := cwFormat_of_cw 0x01 rfl (by decide)
theorem CwFormat.decode : CwFormat.Statement .decode := cwFormat_of_cw 0x02 rfl (by decide)
theorem CwFormat.bycodeOpcode (w : Operand) : CwFormat.Statement (.bycodeOpcode w) := cwFormat_of_cw 0x03 rfl (by decide)
theorem CwFormat.bycodeRcode (w : Operand) : CwFormat.Statement (.bycodeRcode w) := cwFormat_of_cw 0x04 rfl (by decide)
theorem CwFormat.getId : CwFormat.Statement .getId := cwFormat_of_cw 0x40 rfl (by decide)
theorem CwFormat.getRequest : CwFormat.Statement .getRequest := cwFormat_of_cw 0x41 rfl (by decide)
theorem CwFormat.getOpcode : CwFormat.Statement .getOpcode := cwFormat_of_cw 0x42 rfl (by decide)
theorem CwFormat.getAa : CwFormat.Statement .getAa := cwFormat_of_cw 0x43 rfl (by decide)
theorem CwFormat.getTc : CwFormat.Statement .getTc := cwFormat_of_cw 0x44 rfl (by decide)
theorem CwFormat.getRd : CwFormat.Statement .getRd := cwFormat_of_cw 0x45 rfl (by decide)
theorem CwFormat.getRa : CwFormat.Statement .getRa := cwFormat_of_cw 0x46 rfl (by decide)
theorem CwFormat.getRcode : CwFormat.Statement .getRcode := cwFormat_of_cw 0x47 rfl (by decide)
theorem CwFormat.getQuestionEntries : CwFormat.Statement .getQuestionEntries := cwFormat_of_cw 0x48 rfl (by decide)
theorem CwFormat.getAnswerEntries : CwFormat.Statement .getAnswerEntries := cwFormat_of_cw 0x49 rfl (by decide)
theorem CwFormat.getAuthorityRecords : CwFormat.Statement .getAuthorityRecords := cwFormat_of_cw 0x4A rfl (by decide)
theorem CwFormat.getAdditionalRecords : CwFormat.Statement .getAdditionalRecords := cwFormat_of_cw 0x4B rfl (by decide)
theorem CwFormat.setId (w : Operand) : CwFormat.Statement (.setId w) := cwFormat_of_cw 0x80 rfl (by decide)
theorem CwFormat.setRequest (w : Operand) : CwFormat.Statement (.setRequest w) := cwFormat_of_cw 0x81 rfl (by decide)
theorem CwFormat.setOpcode (w : Operand) : CwFormat.Statement (.setOpcode w) := cwFormat_of_cw 0x82 rfl (by decide)
theorem CwFormat.setAa (w : Operand) : CwFormat.Statement (.setAa w) := cwFormat_of_cw 0x83 rfl (by decide)
theorem CwFormat.setTc (w : Operand) : CwFormat.Statement (.setTc w) := cwFormat_of_cw 0x84 rfl (by decide)
theorem CwFormat.setRd (w : Operand) : CwFormat.Statement (.setRd w) := cwFormat_of_cw 0x85 rfl (by decide)
theorem CwFormat.setRa (w : Operand) : CwFormat.Statement (.setRa w) := cwFormat_of_cw 0x86 rfl (by decide)
theorem CwFormat.setRcode (w : Operand) : CwFormat.Statement (.setRcode w) := cwFormat_of_cw 0x87 rfl (by decide)
theorem CwFormat.setQuestionEntries (w : Operand) : CwFormat.Statement (.setQuestionEntries w) := cwFormat_of_cw 0x88 rfl (by decide)
theorem CwFormat.setAnswerEntries (w : Operand) : CwFormat.Statement (.setAnswerEntries w) := cwFormat_of_cw 0x89 rfl (by decide)
theorem CwFormat.setAuthorityRecords (w : Operand) : CwFormat.Statement (.setAuthorityRecords w) := cwFormat_of_cw 0x8A rfl (by decide)
theorem CwFormat.setAdditionalRecords (w : Operand) : CwFormat.Statement (.setAdditionalRecords w) := cwFormat_of_cw 0x8B rfl (by decide)

end Sys2Proof.Laws
end

