-- ==== Sys2Proof/Laws/Wire.lean ====
section
/-! SUPPORT. What the enum validator, the field mux-shifter, the bit-packer and the two halves of the codec can do, once for
each. -/

namespace Sys2Proof.Machine

/-! ## The enum validator (R171 to R173) -/

/-- `Opcode.byCode` gives a member exactly on that member's code. -/
theorem opcodeByCode_eq_ok (c : U4) (m : Opcode) : opcodeByCode c = .ok m ↔ c = opcodeCode m := by
  revert c; cases m <;> decide

/-- `ResponseCode.byCode` gives a member exactly on that member's code. -/
theorem rcodeByCode_eq_ok (c : U4) (m : ResponseCode) : rcodeByCode c = .ok m ↔ c = rcodeCode m := by
  revert c; cases m <;> decide

/-- `Opcode.byCode` fails exactly on the codes above 2, with that code. -/
theorem opcodeByCode_eq_error (c : U4) (e : Error) :
    opcodeByCode c = .error e ↔ 2 < c.toNat ∧ e = .invalidCode .opcode c := by
  simp only [opcodeByCode]
  split <;> simp_all [eq_comm] <;> omega

/-- `ResponseCode.byCode` fails exactly on the codes above 5, with that code. -/
theorem rcodeByCode_eq_error (c : U4) (e : Error) :
    rcodeByCode c = .error e ↔ 5 < c.toNat ∧ e = .invalidCode .responseCode c := by
  simp only [rcodeByCode]
  split <;> simp_all [eq_comm] <;> omega

/-! ## The field mux-shifter (R151) -/

/-- A one-bit part is one bit of the flag word. -/
theorem flagBit_eq_getLsbD (f : U16) (p : FlagPart) (h : p.mask = 1) : flagBit f p = f.getLsbD p.shift := by
  simp only [flagBit, flagField, h]
  rw [Bool.eq_iff_iff, beq_iff_eq]
  constructor
  · intro e
    have := congrArg (fun v : U16 => v.getLsbD 0) e
    simpa using this
  · intro e
    ext i hi
    by_cases hi0 : i = 0 <;> simp_all

/-- The direction bit reads 0 exactly when bit 15 is clear. -/
theorem flagField_qr_eq_zero (f : U16) : (flagField f .qr == 0) = !f.getLsbD 15 := by
  have hle : (flagField f .qr).toNat ≤ 1 := by
    simp only [flagField, FlagPart.mask, BitVec.toNat_and]
    exact Nat.and_le_right
  have h : flagField f .qr = 0 ↔ ¬ flagField f .qr = 1 := by
    rw [← BitVec.toNat_inj, ← BitVec.toNat_inj]
    change _ = 0 ↔ ¬ _ = 1
    omega
  have hb := flagBit_eq_getLsbD f .qr rfl
  simp only [flagBit, FlagPart.shift] at hb
  rw [← hb]
  by_cases h1 : flagField f .qr = 1 <;> simp_all

/-- The opcode part is `f[14:11]`. -/
theorem flagCode_opcode (f : U16) : flagCode f .opcode = f.extractLsb' 11 4 := by
  ext i hi
  have : i = 0 ∨ i = 1 ∨ i = 2 ∨ i = 3 := by omega
  rcases this with rfl | rfl | rfl | rfl <;> simp [flagCode, flagField, FlagPart.shift, FlagPart.mask]

/-- The response code part is `f[3:0]`. -/
theorem flagCode_rcode (f : U16) : flagCode f .rcode = f.extractLsb' 0 4 := by
  ext i hi
  have : i = 0 ∨ i = 1 ∨ i = 2 ∨ i = 3 := by omega
  rcases this with rfl | rfl | rfl | rfl <;> simp [flagCode, flagField, FlagPart.shift, FlagPart.mask]

/-! ## Encode direction -/

/-- ENCODE's packing succeeds exactly when the opcode is set (R140, R145). -/
theorem encodeHeader_eq_ok (h : Header) (b : Bytes12) :
    encodeHeader h = .ok b ↔ ∃ m, h.opcode = some m ∧
      b = layout h.id (packFlags h.request (opcodeCode m) h.recursionDesired) h.questionEntries h.answerEntries
        h.authorityRecords h.additionalRecords := by
  simp only [encodeHeader]
  split <;> simp_all [eq_comm]

/-- ENCODE's packing fails only for want of an opcode (R145). -/
theorem encodeHeader_eq_error (h : Header) (e : Error) :
    encodeHeader h = .error e ↔ h.opcode = none ∧ e = .opcodeUnset := by
  simp only [encodeHeader]
  split <;> simp_all [eq_comm]

/-- The words of a layout are the words laid out (R143, R153). -/
@[simp] theorem wireWord_layout_0 (w0 w1 w2 w3 w4 w5 : U16) : wireWord (layout w0 w1 w2 w3 w4 w5) 0 = w0 := be16_hi8_lo8 w0
@[simp] theorem wireWord_layout_1 (w0 w1 w2 w3 w4 w5 : U16) : wireWord (layout w0 w1 w2 w3 w4 w5) 1 = w1 := be16_hi8_lo8 w1
@[simp] theorem wireWord_layout_2 (w0 w1 w2 w3 w4 w5 : U16) : wireWord (layout w0 w1 w2 w3 w4 w5) 2 = w2 := be16_hi8_lo8 w2
@[simp] theorem wireWord_layout_3 (w0 w1 w2 w3 w4 w5 : U16) : wireWord (layout w0 w1 w2 w3 w4 w5) 3 = w3 := be16_hi8_lo8 w3
@[simp] theorem wireWord_layout_4 (w0 w1 w2 w3 w4 w5 : U16) : wireWord (layout w0 w1 w2 w3 w4 w5) 4 = w4 := be16_hi8_lo8 w4
@[simp] theorem wireWord_layout_5 (w0 w1 w2 w3 w4 w5 : U16) : wireWord (layout w0 w1 w2 w3 w4 w5) 5 = w5 := be16_hi8_lo8 w5

/-- What the sink holds after a write: the bytes written inside it, the old bytes outside (R52). -/
theorem getElem_sinkWrite (bs : List Byte) (snk : Bytes12) (o i : Nat) (hi : i < 12) :
    (sinkWrite snk o bs)[i] = if o ≤ i then (bs[i - o]?).getD snk[i] else snk[i] := by
  induction bs generalizing snk o with
  | nil => simp [sinkWrite]
  | cons b bs ih =>
    rw [sinkWrite, ih, Vector.getElem_setIfInBounds hi]
    rcases lt_trichotomy o i with hlt | rfl | hgt
    · obtain ⟨k, rfl⟩ : ∃ k, i = o + 1 + k := ⟨i - (o + 1), by omega⟩
      have hne : o ≠ o + 1 + k := by omega
      have hle : o ≤ o + 1 + k := by omega
      simp [hne, hle, show o + 1 + k - o = k + 1 by omega]
    · simp
    · have hne : o ≠ i := by omega
      have h1 : ¬ o + 1 ≤ i := by omega
      have h2 : ¬ o ≤ i := by omega
      simp [hne, h1, h2]

/-! ## Decode direction -/

/-- The Header that a wire header with these two members unpacks to (R154). -/
def unpacked (b : Bytes12) (m : Opcode) (r : ResponseCode) : Header where
  id := wireWord b 0
  request := !(wireWord b 1).getLsbD 15
  opcode := some m
  authoritativeAnswer := (wireWord b 1).getLsbD 10
  truncated := (wireWord b 1).getLsbD 9
  recursionDesired := (wireWord b 1).getLsbD 8
  recursionAvailable := (wireWord b 1).getLsbD 7
  responseCode := some r
  questionEntries := wireWord b 2
  answerEntries := wireWord b 3
  authorityRecords := wireWord b 4
  additionalRecords := wireWord b 5

/-- DECODE's unpacking by cases: both codes name members, or the opcode does not, or only the response code does not (R155). -/
theorem decodeHeader_cases (b : Bytes12) :
    (∃ m r, (wireWord b 1).extractLsb' 11 4 = opcodeCode m ∧ (wireWord b 1).extractLsb' 0 4 = rcodeCode r ∧
      decodeHeader b = .ok (unpacked b m r)) ∨
    (2 < ((wireWord b 1).extractLsb' 11 4).toNat ∧
      decodeHeader b = .error (.invalidCode .opcode ((wireWord b 1).extractLsb' 11 4))) ∨
    (((wireWord b 1).extractLsb' 11 4).toNat ≤ 2 ∧ 5 < ((wireWord b 1).extractLsb' 0 4).toNat ∧
      decodeHeader b = .error (.invalidCode .responseCode ((wireWord b 1).extractLsb' 0 4))) := by
  rw [← flagCode_opcode, ← flagCode_rcode]
  rcases ho : opcodeByCode (flagCode (wireWord b 1) .opcode) with e | m
  · obtain ⟨hlt, rfl⟩ := (opcodeByCode_eq_error _ _).mp ho
    exact .inr (.inl ⟨hlt, by simp [decodeHeader, ho]⟩)
  · have hm := (opcodeByCode_eq_ok _ _).mp ho
    rcases hr : rcodeByCode (flagCode (wireWord b 1) .rcode) with e | r
    · obtain ⟨hlt, rfl⟩ := (rcodeByCode_eq_error _ _).mp hr
      exact .inr (.inr ⟨by rw [hm]; cases m <;> decide, hlt, by simp [decodeHeader, ho, hr]⟩)
    · refine .inl ⟨m, r, hm, (rcodeByCode_eq_ok _ _).mp hr, ?_⟩
      simp only [decodeHeader, ho, hr, unpacked, flagField_qr_eq_zero, flagBit_eq_getLsbD _ .aa rfl,
        flagBit_eq_getLsbD _ .tc rfl, flagBit_eq_getLsbD _ .rd rfl, flagBit_eq_getLsbD _ .ra rfl, FlagPart.shift]

/-- Where both codes are members' codes, unpacking succeeds with those members (R154). -/
theorem decodeHeader_ok (b : Bytes12) (m : Opcode) (r : ResponseCode)
    (hm : (wireWord b 1).extractLsb' 11 4 = opcodeCode m) (hr : (wireWord b 1).extractLsb' 0 4 = rcodeCode r) :
    decodeHeader b = .ok (unpacked b m r) := by
  rw [← flagCode_opcode] at hm
  rw [← flagCode_rcode] at hr
  simp only [decodeHeader, (opcodeByCode_eq_ok _ _).mpr hm, (rcodeByCode_eq_ok _ _).mpr hr, unpacked, flagField_qr_eq_zero,
    flagBit_eq_getLsbD _ .aa rfl, flagBit_eq_getLsbD _ .tc rfl, flagBit_eq_getLsbD _ .rd rfl,
    flagBit_eq_getLsbD _ .ra rfl, FlagPart.shift]

end Sys2Proof.Machine
end

