-- ==== Sys2Proof/Laws/Step.lean ====
section
/-! SUPPORT. What a command that is no plain read or write can do, and how a step meets an event of the host's schedule. -/

namespace Sys2Proof.Machine

/-- DECODE by its three ways to end: too few bytes, an error of the unpacking, a fresh Header (R150). -/
theorem execDecode_eq_next (s t : State) : execDecode s = .next t ↔
    (s.src.lim < s.src.pos + 12 ∧ t = s.setResponse (some (.err .truncatedInput))) ∨
    (s.src.pos + 12 ≤ s.src.lim ∧ ∃ e, decodeHeader (s.src.memRead s.src.pos 12) = .error e ∧
      t = (s.setSrc (s.src.advance Config.invalidAdvance)).setResponse (some (.err e))) ∨
    (s.src.pos + 12 ≤ s.src.lim ∧ ∃ h, decodeHeader (s.src.memRead s.src.pos 12) = .ok h ∧
      t = ((s.setHeader h).setSrc (s.src.advance 12)).setResponse (some .ok)) := by
  by_cases hp : s.src.pos + 12 ≤ s.src.lim
  · rcases hd : decodeHeader (s.src.memRead s.src.pos 12) with e | h <;>
      simp [execDecode, Source.holdsHeader, Config.hdrBytes, hp, hd, Nat.not_lt.mpr hp]
  · simp [execDecode, Source.holdsHeader, Config.hdrBytes, hp, Nat.lt_of_not_le hp]

/-- ENCODE by its two ways to end (R140, R145). -/
theorem execEncode_eq_next (s t : State) : execEncode s = .next t ↔
    (s.header.opcode = none ∧ t = s.setResponse (some (.err .opcodeUnset))) ∨
    (∃ b, encodeHeader s.header = .ok b ∧ t = s.setResponse (some (.okBytes b))) := by
  simp only [execEncode]
  rcases he : encodeHeader s.header with e | b
  · obtain ⟨hn, rfl⟩ := (encodeHeader_eq_error _ _).mp he
    simp [hn]
  · obtain ⟨m, hm, -⟩ := (encodeHeader_eq_ok _ _).mp he
    simp [hm]

/-- What an operand that is a 4-bit code stands for (R85). -/
theorem codeOperand_of_le (w : Operand) (h : w.toNat ≤ 15) : codeOperand w = some (w.setWidth 4) := by
  rw [codeOperand, if_pos h]

/-- BYCODE_OPCODE by its three ways to end; nothing but the response changes (R174). -/
theorem execBycodeOpcode_eq_next (w : Operand) (s t : State) : execBycodeOpcode w s = .next t ↔
    (15 < w.toNat ∧ t = s.setResponse (some (.err .illegalCommand))) ∨
    (w.toNat ≤ 15 ∧ ∃ e, opcodeByCode (w.setWidth 4) = .error e ∧ t = s.setResponse (some (.err e))) ∨
    (w.toNat ≤ 15 ∧ ∃ m, opcodeByCode (w.setWidth 4) = .ok m ∧
      t = s.setResponse (some (.okOpcode (some m)))) := by
  by_cases h : w.toNat ≤ 15
  · rw [execBycodeOpcode, codeOperand_of_le w h]
    rcases hb : opcodeByCode (w.setWidth 4) with e | m <;> simp [withOperand, hb, h, Nat.not_lt.mpr h]
  · simp [execBycodeOpcode, withOperand, codeOperand, h, Nat.lt_of_not_le h]

/-- BYCODE_RCODE by its three ways to end; nothing but the response changes (R175). -/
theorem execBycodeRcode_eq_next (w : Operand) (s t : State) : execBycodeRcode w s = .next t ↔
    (15 < w.toNat ∧ t = s.setResponse (some (.err .illegalCommand))) ∨
    (w.toNat ≤ 15 ∧ ∃ e, rcodeByCode (w.setWidth 4) = .error e ∧ t = s.setResponse (some (.err e))) ∨
    (w.toNat ≤ 15 ∧ ∃ m, rcodeByCode (w.setWidth 4) = .ok m ∧
      t = s.setResponse (some (.okRcode (some m)))) := by
  by_cases h : w.toNat ≤ 15
  · rw [execBycodeRcode, codeOperand_of_le w h]
    rcases hb : rcodeByCode (w.setWidth 4) with e | m <;> simp [withOperand, hb, h, Nat.not_lt.mpr h]
  · simp [execBycodeRcode, withOperand, codeOperand, h, Nat.lt_of_not_le h]

/-- A GET changes nothing but the response, which is no error (R101). -/
theorem exec_getCmd (f : HeaderField) (s : State) :
    ∃ r, exec f.getCmd s = .next (s.setResponse (some r)) ∧ ∀ e, r ≠ .err e := by
  cases f <;> exact ⟨_, rfl, fun e => nofun⟩

/-- A SET with a legal operand changes `H` and answers `ok`; with an illegal one it is an illegal command (R102). -/
theorem exec_setCmd (f : HeaderField) (w : Operand) (s : State) :
    ((f.setCmd w).wellFormed = true ∧ ∃ h, exec (f.setCmd w) s = .next ((s.setHeader h).setResponse (some .ok))) ∨
    ((f.setCmd w).wellFormed = false ∧
      exec (f.setCmd w) s = .next (s.setResponse (some (.err .illegalCommand)))) := by
  have checked {α : Type} (o : Option α) (legal : Bool) (put : α → Header) (h : o.isSome = legal) :
      (legal = true ∧ ∃ h, withOperand o s (fun v => respond .ok (s.setHeader (put v))) =
        .next ((s.setHeader h).setResponse (some .ok))) ∨
      (legal = false ∧ withOperand o s (fun v => respond .ok (s.setHeader (put v))) =
        .next (s.setResponse (some (.err .illegalCommand)))) := by
    subst h
    cases o with
    | none => exact .inr ⟨rfl, rfl⟩
    | some v => exact .inl ⟨rfl, _, rfl⟩
  cases f
  case request => exact checked _ _ _ (boolOperand_isSome w)
  case opcode => exact checked _ _ _ (opcodeOperand_isSome w)
  case authoritativeAnswer => exact checked _ _ _ (boolOperand_isSome w)
  case truncated => exact checked _ _ _ (boolOperand_isSome w)
  case recursionDesired => exact checked _ _ _ (boolOperand_isSome w)
  case recursionAvailable => exact checked _ _ _ (boolOperand_isSome w)
  case responseCode => exact checked _ _ _ (rcodeOperand_isSome w)
  all_goals exact .inl ⟨rfl, _, rfl⟩

/-- Every command is CLEAR, ENCODE, DECODE, a BYCODE, or the GET or SET of one field (R87). -/
theorem instr_cases (i : Instr) :
    i = .clear ∨ i = .encode ∨ i = .decode ∨ (∃ w, i = .bycodeOpcode w) ∨ (∃ w, i = .bycodeRcode w) ∨
      (∃ f : HeaderField, i = f.getCmd) ∨ ∃ (f : HeaderField) (w : Operand), i = f.setCmd w := by
  cases i
  case clear => simp
  case encode => simp
  case decode => simp
  case bycodeOpcode w => simp
  case bycodeRcode w => simp
  case getId => exact .inr (.inr (.inr (.inr (.inr (.inl ⟨.id, rfl⟩)))))
  case getRequest => exact .inr (.inr (.inr (.inr (.inr (.inl ⟨.request, rfl⟩)))))
  case getOpcode => exact .inr (.inr (.inr (.inr (.inr (.inl ⟨.opcode, rfl⟩)))))
  case getAa => exact .inr (.inr (.inr (.inr (.inr (.inl ⟨.authoritativeAnswer, rfl⟩)))))
  case getTc => exact .inr (.inr (.inr (.inr (.inr (.inl ⟨.truncated, rfl⟩)))))
  case getRd => exact .inr (.inr (.inr (.inr (.inr (.inl ⟨.recursionDesired, rfl⟩)))))
  case getRa => exact .inr (.inr (.inr (.inr (.inr (.inl ⟨.recursionAvailable, rfl⟩)))))
  case getRcode => exact .inr (.inr (.inr (.inr (.inr (.inl ⟨.responseCode, rfl⟩)))))
  case getQuestionEntries => exact .inr (.inr (.inr (.inr (.inr (.inl ⟨.questionEntries, rfl⟩)))))
  case getAnswerEntries => exact .inr (.inr (.inr (.inr (.inr (.inl ⟨.answerEntries, rfl⟩)))))
  case getAuthorityRecords => exact .inr (.inr (.inr (.inr (.inr (.inl ⟨.authorityRecords, rfl⟩)))))
  case getAdditionalRecords => exact .inr (.inr (.inr (.inr (.inr (.inl ⟨.additionalRecords, rfl⟩)))))
  case setId w => exact .inr (.inr (.inr (.inr (.inr (.inr ⟨.id, w, rfl⟩)))))
  case setRequest w => exact .inr (.inr (.inr (.inr (.inr (.inr ⟨.request, w, rfl⟩)))))
  case setOpcode w => exact .inr (.inr (.inr (.inr (.inr (.inr ⟨.opcode, w, rfl⟩)))))
  case setAa w => exact .inr (.inr (.inr (.inr (.inr (.inr ⟨.authoritativeAnswer, w, rfl⟩)))))
  case setTc w => exact .inr (.inr (.inr (.inr (.inr (.inr ⟨.truncated, w, rfl⟩)))))
  case setRd w => exact .inr (.inr (.inr (.inr (.inr (.inr ⟨.recursionDesired, w, rfl⟩)))))
  case setRa w => exact .inr (.inr (.inr (.inr (.inr (.inr ⟨.recursionAvailable, w, rfl⟩)))))
  case setRcode w => exact .inr (.inr (.inr (.inr (.inr (.inr ⟨.responseCode, w, rfl⟩)))))
  case setQuestionEntries w => exact .inr (.inr (.inr (.inr (.inr (.inr ⟨.questionEntries, w, rfl⟩)))))
  case setAnswerEntries w => exact .inr (.inr (.inr (.inr (.inr (.inr ⟨.answerEntries, w, rfl⟩)))))
  case setAuthorityRecords w => exact .inr (.inr (.inr (.inr (.inr (.inr ⟨.authorityRecords, w, rfl⟩)))))
  case setAdditionalRecords w => exact .inr (.inr (.inr (.inr (.inr (.inr ⟨.additionalRecords, w, rfl⟩)))))

/-- The inversion of `exec`: everything a command can do to the state, and the only ways it can. -/
theorem exec_inversion (i : Instr) (s t : State) (h : exec i s = .next t) :
    (i = .clear ∧ t = (s.setHeader Header.empty).setResponse (some .ok)) ∨
    (i = .encode ∧ ∃ r, t = s.setResponse (some r)) ∨
    (i = .decode ∧ ((∃ e, t = s.setResponse (some (.err e))) ∨
      (∃ e, t = (s.setSrc (s.src.advance Config.invalidAdvance)).setResponse (some (.err e))) ∨
      ∃ h, t = ((s.setHeader h).setSrc (s.src.advance 12)).setResponse (some .ok))) ∨
    (((∃ w, i = .bycodeOpcode w) ∨ ∃ w, i = .bycodeRcode w) ∧ ∃ r, t = s.setResponse (some r)) ∨
    ((∃ f : HeaderField, i = f.getCmd) ∧ ∃ r, t = s.setResponse (some r) ∧ ∀ e, r ≠ .err e) ∨
    (∃ (f : HeaderField) (w : Operand), i = f.setCmd w ∧
      (((f.setCmd w).wellFormed = true ∧ ∃ h, t = (s.setHeader h).setResponse (some .ok)) ∨
       ((f.setCmd w).wellFormed = false ∧ t = s.setResponse (some (.err .illegalCommand))))) := by
  rcases instr_cases i with rfl | rfl | rfl | ⟨w, rfl⟩ | ⟨w, rfl⟩ | ⟨f, rfl⟩ | ⟨f, w, rfl⟩
  · exact .inl ⟨rfl, (respond_eq_next _ _ _).mp h⟩
  · refine .inr (.inl ⟨rfl, ?_⟩)
    rcases (execEncode_eq_next s t).mp h with ⟨-, rfl⟩ | ⟨b, -, rfl⟩ <;> exact ⟨_, rfl⟩
  · refine .inr (.inr (.inl ⟨rfl, ?_⟩))
    rcases (execDecode_eq_next s t).mp h with ⟨-, rfl⟩ | ⟨-, e, -, rfl⟩ | ⟨-, h, -, rfl⟩
    · exact .inl ⟨_, rfl⟩
    · exact .inr (.inl ⟨_, rfl⟩)
    · exact .inr (.inr ⟨_, rfl⟩)
  · refine .inr (.inr (.inr (.inl ⟨.inl ⟨w, rfl⟩, ?_⟩)))
    rcases (execBycodeOpcode_eq_next w s t).mp h with ⟨-, rfl⟩ | ⟨-, e, -, rfl⟩ | ⟨-, m, -, rfl⟩ <;> exact ⟨_, rfl⟩
  · refine .inr (.inr (.inr (.inl ⟨.inr ⟨w, rfl⟩, ?_⟩)))
    rcases (execBycodeRcode_eq_next w s t).mp h with ⟨-, rfl⟩ | ⟨-, e, -, rfl⟩ | ⟨-, m, -, rfl⟩ <;> exact ⟨_, rfl⟩
  · refine .inr (.inr (.inr (.inr (.inl ⟨⟨f, rfl⟩, ?_⟩))))
    obtain ⟨r, hr, hn⟩ := exec_getCmd f s
    rw [hr] at h
    cases h
    exact ⟨r, rfl, hn⟩
  · refine .inr (.inr (.inr (.inr (.inr ⟨f, w, rfl, ?_⟩))))
    rcases exec_setCmd f w s with ⟨hw, h', he⟩ | ⟨hw, he⟩ <;> rw [he] at h <;> cases h
    · exact .inl ⟨hw, h', rfl⟩
    · exact .inr ⟨hw, rfl⟩

/-- A step with nothing to do. -/
theorem step_idle (s : State) (h : s.host = []) : step s = .next s := by
  simp [step, idle, h]

/-- A step runs the event at the head of the schedule, at the state in which it is no longer to come. -/
theorem step_event (s : State) (e : HostEvent) (rest : List HostEvent) (h : s.host = e :: rest) :
    step s = runEvent e (s.setHost rest) := by
  simp [step, h]

end Sys2Proof.Machine
end

