-- ==== Sys2Proof/Tests/Slice0.lean ====
section
/-! SUPPORT. The model's own tests. Expected results are the spec's: its encodings (spec/30_encoding.md R84, R87), its test vectors
(spec/95_test_vectors.md, cited as V-…) and its rules. The second half shows, for every statement of
Sys2Proof/Certificates/Slice0/Obligations.lean that has hypotheses, states and operands that meet them. -/

namespace Sys2Proof.Tests

open Sys2Proof Sys2Proof.Machine Sys2Proof.Machine.Vocabulary

/-! ## Small states and what is read of an outcome -/

/-- The reset state with another Header. -/
def withHeader (h : Header) : State := State.reset.setHeader h

/-- The reset state with a byte source that holds `bs` from address 0. -/
def withBytes (bs : List Byte) (pos lim : Nat) : State :=
  State.reset.setSrc { mem := Memory.writeBytes [] 0 bs, pos := pos, lim := lim }

/-- The state in which the host is about to do `evs`. -/
def withHost (evs : List HostEvent) : State := State.reset.setHost evs

/-- The state after, where there is one. -/
def after : Host.Outcome State Fault Refusal → Option State
  | .next t => some t
  | .fault _ => none
  | .refused _ => none

/-- The response after. -/
def responseOf (o : Host.Outcome State Fault Refusal) : Option Response := (after o).bind State.response

/-- The Header after. -/
def headerOf (o : Host.Outcome State Fault Refusal) : Option Header := (after o).map State.header

/-- The position after. -/
def positionOf (o : Host.Outcome State Fault Refusal) : Option Nat := (after o).map fun t => t.src.pos

/-- A Header with a different value in every field. -/
def full : Header where
  id := 0x1234
  request := true
  opcode := some .status
  authoritativeAnswer := true
  truncated := false
  recursionDesired := true
  recursionAvailable := false
  responseCode := some .nameError
  questionEntries := 1
  answerEntries := 2
  authorityRecords := 3
  additionalRecords := 4

/-- V-D3's twelve bytes. -/
def bytesD3 : List Byte := [0xAB, 0xCD, 0x85, 0x83, 0x00, 0x01, 0x00, 0x02, 0x00, 0x03, 0x00, 0x04]

/-- V-D3's Header. -/
def headerD3 : Header where
  id := 0xABCD
  request := false
  opcode := some .query
  authoritativeAnswer := true
  truncated := false
  recursionDesired := true
  recursionAvailable := true
  responseCode := some .nameError
  questionEntries := 1
  answerEntries := 2
  authorityRecords := 3
  additionalRecords := 4

/-! ## Well-formedness: an ill-formed term for each check, refused (R85) -/

theorem test_wellFormed_code : (Instr.bycodeOpcode 15).wellFormed = true ∧ (Instr.bycodeOpcode 16).wellFormed = false ∧
    (Instr.bycodeRcode 15).wellFormed = true ∧ (Instr.bycodeRcode 16).wellFormed = false := by decide

theorem test_wellFormed_bool : (Instr.setRequest 1).wellFormed = true ∧ (Instr.setRequest 2).wellFormed = false ∧
    (Instr.setAa 2).wellFormed = false ∧ (Instr.setTc 2).wellFormed = false ∧ (Instr.setRd 2).wellFormed = false ∧
    (Instr.setRa 0xFFFFFFFF).wellFormed = false := by decide

theorem test_wellFormed_opcode : (Instr.setOpcode 2).wellFormed = true ∧ (Instr.setOpcode 3).wellFormed = false := by decide

theorem test_wellFormed_rcode : (Instr.setRcode 5).wellFormed = true ∧ (Instr.setRcode 6).wellFormed = false := by decide

theorem test_wellFormed_word : (Instr.setId 0xFFFFFFFF).wellFormed = true := by decide

/-! ## Decoding: every command word, bit by bit as the format of R84 writes it -/

theorem test_decode_control :
    decode ⟨0b00000000, 0⟩ = .ok .clear ∧ decode ⟨0b00000001, 0⟩ = .ok .encode ∧ decode ⟨0b00000010, 0⟩ = .ok .decode ∧
    decode ⟨0b00000011, 9⟩ = .ok (.bycodeOpcode 9) ∧ decode ⟨0b00000100, 9⟩ = .ok (.bycodeRcode 9) :=
  ⟨rfl, rfl, rfl, rfl, rfl⟩

theorem test_decode_get :
    decode ⟨0b01000000, 0⟩ = .ok .getId ∧ decode ⟨0b01000001, 0⟩ = .ok .getRequest ∧
    decode ⟨0b01000010, 0⟩ = .ok .getOpcode ∧ decode ⟨0b01000011, 0⟩ = .ok .getAa ∧
    decode ⟨0b01000100, 0⟩ = .ok .getTc ∧ decode ⟨0b01000101, 0⟩ = .ok .getRd ∧
    decode ⟨0b01000110, 0⟩ = .ok .getRa ∧ decode ⟨0b01000111, 0⟩ = .ok .getRcode ∧
    decode ⟨0b01001000, 0⟩ = .ok .getQuestionEntries ∧ decode ⟨0b01001001, 0⟩ = .ok .getAnswerEntries ∧
    decode ⟨0b01001010, 0⟩ = .ok .getAuthorityRecords ∧ decode ⟨0b01001011, 0⟩ = .ok .getAdditionalRecords :=
  ⟨rfl, rfl, rfl, rfl, rfl, rfl, rfl, rfl, rfl, rfl, rfl, rfl⟩

theorem test_decode_set :
    decode ⟨0b10000000, 7⟩ = .ok (.setId 7) ∧ decode ⟨0b10000001, 7⟩ = .ok (.setRequest 7) ∧
    decode ⟨0b10000010, 7⟩ = .ok (.setOpcode 7) ∧ decode ⟨0b10000011, 7⟩ = .ok (.setAa 7) ∧
    decode ⟨0b10000100, 7⟩ = .ok (.setTc 7) ∧ decode ⟨0b10000101, 7⟩ = .ok (.setRd 7) ∧
    decode ⟨0b10000110, 7⟩ = .ok (.setRa 7) ∧ decode ⟨0b10000111, 7⟩ = .ok (.setRcode 7) ∧
    decode ⟨0b10001000, 7⟩ = .ok (.setQuestionEntries 7) ∧ decode ⟨0b10001001, 7⟩ = .ok (.setAnswerEntries 7) ∧
    decode ⟨0b10001010, 7⟩ = .ok (.setAuthorityRecords 7) ∧ decode ⟨0b10001011, 7⟩ = .ok (.setAdditionalRecords 7) :=
  ⟨rfl, rfl, rfl, rfl, rfl, rfl, rfl, rfl, rfl, rfl, rfl, rfl⟩

/-- The edges of the reserved ranges of R88. -/
theorem test_decode_reserved :
    decode ⟨0x05, 0⟩ = .error (.reservedFunction 0x05) ∧ decode ⟨0x3F, 0⟩ = .error (.zeroBitsSet 0x3F) ∧
    decode ⟨0x4C, 0⟩ = .error (.reservedSelector 0x4C) ∧ decode ⟨0x7F, 0⟩ = .error (.zeroBitsSet 0x7F) ∧
    decode ⟨0x8C, 0⟩ = .error (.reservedSelector 0x8C) ∧ decode ⟨0xC0, 0⟩ = .error (.reservedClass 0xC0) ∧
    decode ⟨0xFF, 0⟩ = .error (.zeroBitsSet 0xFF) := ⟨rfl, rfl, rfl, rfl, rfl, rfl, rfl⟩

/-- `cw` is bits 7 to 0 of a table word and `wdata` bits 39 to 8; bits at or above `nbits` are 0. -/
theorem test_table_word :
    decodeTableWord 8 0x85 = some (.setRd 0) ∧ decodeTableWord 40 0x0000000185 = some (.setRd 1) ∧
    decodeTableWord 8 0x0000000185 = some (.setRd 0) ∧ decodeTableWord 8 0xC0 = none := ⟨rfl, rfl, rfl, rfl⟩

/-! ## Reset and the host's other acts -/

/-- The reset table of R200. -/
theorem test_reset : State.reset.header = Header.empty ∧ State.reset.header.opcodeSet = false ∧
    State.reset.header.rcodeSet = false ∧ State.reset.response = none := by decide

/-- R202: the reset input empties `H` and leaves the position. -/
theorem test_reset_input : after (step ((withBytes bytesD3 3 12).setHeader full |>.setHost [.reset])) =
    some (withBytes bytesD3 3 12) := by decide

/-- R196: nothing presented, nothing changes. -/
theorem test_idle : after (step (withHeader full)) = some (withHeader full) := by decide

/-- R61: bytes placed by the host; a zero byte leaves no entry, so the form stays canonical. -/
theorem test_host_write : (after (step (withHost [.srcWrite 4 [1, 0, 3]]))).map (fun t => t.src.mem) =
    some [(4, 1), (6, 3)] := by decide

theorem test_memory_erase : Memory.write [(4, 1), (6, 3)] 4 0 = [(6, 3)] := by decide

/-- The step runs the command that the host presents, here by its table word: SET_RCODE 5, then 6 (V-A20, V-A21). -/
theorem test_fetch_word :
    headerOf (step (State.reset.withFetchWord 40 0x0000000587)) =
      some { Header.empty with responseCode := some .refused } ∧
    responseOf (step (State.reset.withFetchWord 40 0x0000000687)) = some (.err .illegalCommand) := by decide

/-- R88: a reserved command word is answered with status 4 and changes nothing. -/
theorem test_reserved_command : after (step ((withHeader full).setHost [.command ⟨0x4C, 0⟩])) =
    some ((withHeader full).setResponse (some (.err .illegalCommand))) := by decide

/-! ## CLEAR and GET -/

/-- V-A22: CLEAR after two SETs. -/
theorem test_clear : after (exec .clear (withHeader full)) = some (State.reset.setResponse (some .ok)) := by decide

/-- V-A1 to V-A6: what each GET returns right after reset. -/
theorem test_get_after_reset :
    responseOf (exec .getId State.reset) = some (.okWord 0) ∧ responseOf (exec .getRequest State.reset) = some (.okBool false) ∧
    responseOf (exec .getOpcode State.reset) = some (.okOpcode none) ∧
    responseOf (exec .getRcode State.reset) = some (.okRcode none) ∧
    responseOf (exec .getAa State.reset) = some (.okBool false) ∧ responseOf (exec .getTc State.reset) = some (.okBool false) ∧
    responseOf (exec .getRd State.reset) = some (.okBool false) ∧ responseOf (exec .getRa State.reset) = some (.okBool false) ∧
    responseOf (exec .getQuestionEntries State.reset) = some (.okWord 0) ∧
    responseOf (exec .getAnswerEntries State.reset) = some (.okWord 0) ∧
    responseOf (exec .getAuthorityRecords State.reset) = some (.okWord 0) ∧
    responseOf (exec .getAdditionalRecords State.reset) = some (.okWord 0) := by decide

/-- Each GET reads its own field (R103 to R114). -/
theorem test_get_full :
    responseOf (exec .getId (withHeader full)) = some (.okWord 0x1234) ∧
    responseOf (exec .getRequest (withHeader full)) = some (.okBool true) ∧
    responseOf (exec .getOpcode (withHeader full)) = some (.okOpcode (some .status)) ∧
    responseOf (exec .getAa (withHeader full)) = some (.okBool true) ∧
    responseOf (exec .getTc (withHeader full)) = some (.okBool false) ∧
    responseOf (exec .getRd (withHeader full)) = some (.okBool true) ∧
    responseOf (exec .getRa (withHeader full)) = some (.okBool false) ∧
    responseOf (exec .getRcode (withHeader full)) = some (.okRcode (some .nameError)) ∧
    responseOf (exec .getQuestionEntries (withHeader full)) = some (.okWord 1) ∧
    responseOf (exec .getAnswerEntries (withHeader full)) = some (.okWord 2) ∧
    responseOf (exec .getAuthorityRecords (withHeader full)) = some (.okWord 3) ∧
    responseOf (exec .getAdditionalRecords (withHeader full)) = some (.okWord 4) := by decide

/-- `rvalid` is 0 for an unset enumeration and 1 for a set one (V-A3, V-A18). -/
theorem test_get_port : (Response.okOpcode none).port.rvalid = 0 ∧ (Response.okOpcode (some .status)).port.rvalid = 1 ∧
    (Response.okOpcode (some .status)).port.rdata = 2 ∧ (Response.okBool true).port.rdata = 1 := by decide

/-! ## SET -/

/-- V-A8 to V-A14: a 16-bit operand is cut. -/
theorem test_set_word :
    headerOf (exec (.setId 0x12345) (withHeader full)) = some { full with id := 0x2345 } ∧
    headerOf (exec (.setQuestionEntries 0x12345) (withHeader full)) = some { full with questionEntries := 0x2345 } ∧
    headerOf (exec (.setAnswerEntries 65536) (withHeader full)) = some { full with answerEntries := 0 } ∧
    headerOf (exec (.setAuthorityRecords 65535) (withHeader full)) = some { full with authorityRecords := 0xFFFF } ∧
    headerOf (exec (.setAdditionalRecords 0x80000001) (withHeader full)) =
      some { full with additionalRecords := 1 } := by decide

/-- V-A15, V-A17: a legal boolean operand. -/
theorem test_set_bool :
    headerOf (exec (.setRequest 0) (withHeader full)) = some { full with request := false } ∧
    headerOf (exec (.setAa 0) (withHeader full)) = some { full with authoritativeAnswer := false } ∧
    headerOf (exec (.setTc 1) (withHeader full)) = some { full with truncated := true } ∧
    headerOf (exec (.setRd 0) (withHeader full)) = some { full with recursionDesired := false } ∧
    headerOf (exec (.setRa 1) (withHeader full)) = some { full with recursionAvailable := true } := by decide

/-- V-A16: an illegal boolean operand, the low bit of which is 0 or 1. -/
theorem test_set_bool_illegal :
    after (exec (.setRequest 2) State.reset) = some (State.reset.setResponse (some (.err .illegalCommand))) ∧
    after (exec (.setAa 3) State.reset) = some (State.reset.setResponse (some (.err .illegalCommand))) ∧
    after (exec (.setTc 2) State.reset) = some (State.reset.setResponse (some (.err .illegalCommand))) ∧
    after (exec (.setRd 0x80000001) State.reset) = some (State.reset.setResponse (some (.err .illegalCommand))) ∧
    after (exec (.setRa 0xFFFFFFFF) State.reset) = some (State.reset.setResponse (some (.err .illegalCommand))) := by decide

/-- V-A18, V-A20: a legal enumeration operand. -/
theorem test_set_enum :
    headerOf (exec (.setOpcode 1) (withHeader full)) = some { full with opcode := some .iquery } ∧
    headerOf (exec (.setRcode 5) (withHeader full)) = some { full with responseCode := some .refused } := by decide

/-- V-A19, V-A21: an illegal enumeration operand, one of them with legal low bits. -/
theorem test_set_enum_illegal :
    after (exec (.setOpcode 3) (withHeader full)) = some ((withHeader full).setResponse (some (.err .illegalCommand))) ∧
    after (exec (.setRcode 6) (withHeader full)) = some ((withHeader full).setResponse (some (.err .illegalCommand))) ∧
    after (exec (.setOpcode 16) (withHeader full)) =
      some ((withHeader full).setResponse (some (.err .illegalCommand))) := by decide

/-! ## ENCODE and DECODE -/

/-- V-E8: the byte order and the flag word 0x1100. -/
theorem test_encode : after (exec .encode (withHeader { Header.empty with
      id := 0x00FF, request := true, opcode := some .status, recursionDesired := true, questionEntries := 0x0100
      answerEntries := 0x00FF, authorityRecords := 0x8000, additionalRecords := 0x0001 })) =
    some ((withHeader { Header.empty with
      id := 0x00FF, request := true, opcode := some .status, recursionDesired := true, questionEntries := 0x0100
      answerEntries := 0x00FF, authorityRecords := 0x8000, additionalRecords := 0x0001 }).setResponse
      (some (.okBytes #v[0x00, 0xFF, 0x11, 0x00, 0x01, 0x00, 0x00, 0xFF, 0x80, 0x00, 0x00, 0x01]))) := by decide

/-- V-E9 and V-E3: AA, TC, RA and RCODE are not emitted; an unset opcode is an error. -/
theorem test_encode_subset_and_unset :
    responseOf (exec .encode (withHeader { Header.empty with
      id := 0x8081, opcode := some .query, authoritativeAnswer := true, truncated := true, recursionAvailable := true
      responseCode := some .nameError, answerEntries := 1 })) =
      some (.okBytes #v[0x80, 0x81, 0x80, 0x00, 0x00, 0x00, 0x00, 0x01, 0x00, 0x00, 0x00, 0x00]) ∧
    responseOf (exec .encode (withHeader { Header.empty with id := 1 })) = some (.err .opcodeUnset) := by decide

/-- V-D28: V-D3's bytes at an odd position, with bytes after them. -/
theorem test_decode : after (exec .decode (withBytes ([0xEE] ++ bytesD3 ++ [0xEE, 0xEE]) 1 15)) =
    some (((withBytes ([0xEE] ++ bytesD3 ++ [0xEE, 0xEE]) 13 15).setHeader headerD3).setResponse (some .ok)) := by decide

/-- V-D29 and V-D7: one byte beyond the limit; both codes illegal. Where the position goes after the second is OPEN, and not tested. -/
theorem test_decode_errors :
    after (exec .decode (withBytes bytesD3 0 11)) =
      some ((withBytes bytesD3 0 11).setResponse (some (.err .truncatedInput))) ∧
    responseOf (exec .decode (withBytes [0x00, 0x00, 0x78, 0x0F] 0 12)) = some (.err (.invalidCode .opcode 15)) ∧
    headerOf (exec .decode ((withBytes [0x00, 0x00, 0x78, 0x0F] 0 12).setHeader full)) = some full := by decide

/-- V-D19 and V-D10: bit 7 is RA and bits 6:4 are ignored. -/
theorem test_flag_parts :
    flagBit 0x0080 .ra = true ∧ flagBit 0x0070 .ra = false ∧ flagCode 0x0070 .rcode = 0 ∧ flagCode 0x7800 .opcode = 15 ∧
    flagBit 0x8000 .qr = true ∧ flagBit 0x0400 .aa = true ∧ flagBit 0x0200 .tc = true ∧ flagBit 0x0100 .rd = true := by decide

/-! ## BYCODE -/

/-- V-B1: BYCODE_OPCODE at 2 and 3, and at an operand that is no code. -/
theorem test_bycode_opcode :
    after (exec (.bycodeOpcode 2) (withHeader full)) =
      some ((withHeader full).setResponse (some (.okOpcode (some .status)))) ∧
    responseOf (exec (.bycodeOpcode 3) State.reset) = some (.err (.invalidCode .opcode 3)) ∧
    responseOf (exec (.bycodeOpcode 16) State.reset) = some (.err .illegalCommand) := by decide

/-- V-B2: BYCODE_RCODE at 5 and 6, and at an operand that is no code. -/
theorem test_bycode_rcode :
    after (exec (.bycodeRcode 5) (withHeader full)) =
      some ((withHeader full).setResponse (some (.okRcode (some .refused)))) ∧
    responseOf (exec (.bycodeRcode 6) State.reset) = some (.err (.invalidCode .responseCode 6)) ∧
    responseOf (exec (.bycodeRcode 16) State.reset) = some (.err .illegalCommand) := by decide

/-! ## Witnesses: for each statement with hypotheses, states and operands that meet them, clause by clause at the boundaries -/

/-- The edges of the legal operands (R85). -/
theorem witness_legal :
    legalCommand ⟨0x81, 1⟩ ∧ legalCommand ⟨0x82, 2⟩ ∧ legalCommand ⟨0x87, 5⟩ ∧ legalCommand ⟨0x03, 15⟩ ∧
    legalCommand ⟨0x04, 15⟩ ∧ legalCommand ⟨0x80, 0xFFFFFFFF⟩ ∧ legalCommand ⟨0x02, 0xFFFFFFFF⟩ := by
  unfold legalCommand legalOperand; decide

theorem witness_illegal :
    ¬ legalCommand ⟨0x81, 2⟩ ∧ ¬ legalCommand ⟨0x82, 3⟩ ∧ ¬ legalCommand ⟨0x87, 6⟩ ∧ ¬ legalCommand ⟨0x03, 16⟩ ∧
    ¬ legalCommand ⟨0x04, 16⟩ ∧ ¬ legalCommand ⟨0x05, 0⟩ ∧ ¬ legalCommand ⟨0xFF, 0⟩ := by
  unfold legalCommand legalOperand; decide

theorem witness_CommandTableIsComplete :
    ∀ cw ∈ [(0x05 : BitVec 8), 0x3F, 0x4C, 0x7F, 0x8C, 0xFF], ∀ row ∈ commandTable 0, row.1 ≠ cw := by decide

theorem witness_DecodeAndEncodeAgree :
    decode ⟨0x80, 0xFFFFFFFF⟩ = .ok (.setId 0xFFFFFFFF) ∧ decode ⟨0x02, 0xFFFFFFFF⟩ = .ok .decode := ⟨rfl, rfl⟩

/-- A reserved word and an illegal operand at the head of a schedule. -/
theorem witness_IllegalCommandsChangeNothing :
    ((withHost [.command ⟨0x05, 0⟩]).host = [.command ⟨0x05, 0⟩] ∧ ¬ legalCommand ⟨0x05, 0⟩) ∧
    ((withHost [.command ⟨0x81, 2⟩]).host = [.command ⟨0x81, 2⟩] ∧ ¬ legalCommand ⟨0x81, 2⟩) :=
  ⟨⟨rfl, witness_illegal.2.2.2.2.2.1⟩, rfl, witness_illegal.1⟩

theorem witness_LegalCommandsAreAccepted :
    (withHost [.command ⟨0x04, 15⟩]).host = [.command ⟨0x04, 15⟩] ∧ legalCommand ⟨0x04, 15⟩ :=
  ⟨rfl, witness_legal.2.2.2.2.1⟩

theorem witness_StepRunsTheDecodedCommand :
    (withHost [.command ⟨0x87, 5⟩]).host = [.command ⟨0x87, 5⟩] ∧ decode ⟨0x87, 5⟩ = .ok (.setRcode 5) := ⟨rfl, rfl⟩

/-- The premise that the rules about the whole machine share: a command at the head of a schedule. -/
theorem witness_EveryCommandGetsOneResponse : (withHost [.command ⟨0xFF, 0⟩]).host = [.command ⟨0xFF, 0⟩] := rfl

theorem witness_HostActsTouchOnlyTheSource :
    State.reset.host = [] ∧ (withHost [.srcPos 5]).host = [.srcPos 5] ∧ (withHost [.srcLim 12]).host = [.srcLim 12] ∧
    (withHost [.srcWrite 0 [1]]).host = [.srcWrite 0 [1]] := by decide

theorem witness_HostBytesLandInTheSource :
    (withHost [.srcWrite 3 [0, 9]]).src.mem.wf ∧ (withHost [.srcWrite 3 [0, 9]]).host = [.srcWrite 3 [0, 9]] ∧
    1 < [0, 9].length ∧ 2 < 3 ∧ 3 + [0, 9].length ≤ 5 := by decide

/-- Both ways to have been reset. -/
theorem witness_ResetEmptiesTheHeader :
    ((withHeader full).setHost [.reset]).host = [.reset] ∧ step ((withHeader full).setHost [.reset]) = .next State.reset :=
  ⟨rfl, rfl⟩

theorem witness_ResetInputLeavesTheSource : ((withHeader full).setHost [.reset]).host = [.reset] := rfl

theorem witness_ClearConstructsAnEmptyHeader :
    exec .clear (withHeader full) = .next (State.reset.setResponse (some .ok)) ∧ (withHeader full).header.opcode ≠ none ∧
    State.reset.header.opcode = none := ⟨rfl, by decide, rfl⟩

/-- Both states that the GET statements and the ENCODE statement call just emptied. -/
theorem witness_JustEmptied : JustEmptied State.reset ∧ JustEmptied (State.reset.setResponse (some .ok)) :=
  ⟨.inl rfl, .inr ⟨withHeader full, rfl⟩⟩

theorem witness_GetWordCommands : JustEmptied State.reset := witness_JustEmptied.1

theorem witness_GetBoolCommands : JustEmptied (State.reset.setResponse (some .ok)) := witness_JustEmptied.2

theorem witness_GetEnumerationCommands :
    JustEmptied State.reset ∧ ∃ t, exec .decode (withBytes bytesD3 0 12) = .next t ∧ t.response = some .ok :=
  ⟨.inl rfl, _, rfl, rfl⟩

theorem witness_SetBoolCommands : 1 < (2 : Operand).toNat ∧ 1 < (0xFFFFFFFF : Operand).toNat ∧
    (∃ t, exec (.setAa (if true then 1 else 0)) (withHeader full) = .next t) ∧ ∃ t, exec (.setAa 2) (withHeader full) = .next t :=
  ⟨by decide, by decide, ⟨_, rfl⟩, _, rfl⟩

theorem witness_SetOpcodeCommand : 2 < (3 : Operand).toNat ∧ (2 : Operand).toNat ≤ 2 ∧
    ∃ t, exec (.setOpcode 2) State.reset = .next t := ⟨by decide, by decide, _, rfl⟩

theorem witness_SetRcodeCommand : 5 < (6 : Operand).toNat ∧ (5 : Operand).toNat ≤ 5 ∧
    ∃ t, exec (.setRcode 5) State.reset = .next t := ⟨by decide, by decide, _, rfl⟩

theorem witness_ReadAfterWriteOfEveryField :
    (HeaderField.responseCode.setCmd 5).wellFormed = true ∧ (HeaderField.request.setCmd 1).wellFormed = true ∧
    (HeaderField.opcode.setCmd 2).wellFormed = true ∧ (HeaderField.id.setCmd 0xFFFFFFFF).wellFormed = true ∧
    HeaderField.id ≠ HeaderField.responseCode := by decide

theorem witness_EncodeEmitsTwelveBytes :
    (withHeader full).header.opcode = some .status ∧ (withHeader Header.empty).header.opcode = none := by decide

theorem witness_EncodeNeedsTheOpcode :
    State.reset.header.opcode = none ∧ JustEmptied State.reset ∧
    exec .encode State.reset = .next (State.reset.setResponse (some (.err .opcodeUnset))) := ⟨rfl, .inl rfl, rfl⟩

theorem witness_EncodeIgnoresResponseFields : ∃ t b, exec .encode (withHeader full) = .next t ∧
    t.response = some (.okBytes b) := ⟨_, _, rfl, rfl⟩

theorem witness_EncodeIsAFunctionOfTheHeader :
    (withHeader full).header = ((withBytes bytesD3 4 9).setHeader full).header ∧
    withHeader full ≠ (withBytes bytesD3 4 9).setHeader full := by decide

theorem witness_MuxShifterSelectsTheParts : (0x8070 : U16) &&& 0xFF8F = 0x8000 &&& 0xFF8F ∧ (0x8070 : U16) ≠ 0x8000 := by decide

/-- Exactly 12 bytes remain, and both codes are legal. -/
theorem witness_DecodeLoadsTheHeader :
    enoughBytes (withBytes bytesD3 0 12) ∧ sourceOpcode (withBytes bytesD3 0 12) = opcodeCode .query ∧
    sourceRcode (withBytes bytesD3 0 12) = rcodeCode .nameError ∧
    ∃ t, exec .decode (withBytes bytesD3 0 12) = .next t ∧ t.response = some .ok :=
  ⟨by unfold enoughBytes; decide, by decide, by decide, _, rfl, rfl⟩

/-- Eleven bytes and twelve; and a limit below the position. -/
theorem witness_DecodeOfAShortSourceChangesNothing :
    (withBytes bytesD3 0 11).src.lim < (withBytes bytesD3 0 11).src.pos + 12 ∧
    (withBytes bytesD3 9 3).src.lim < (withBytes bytesD3 9 3).src.pos + 12 ∧
    (withBytes bytesD3 0 12).src.pos + 12 ≤ (withBytes bytesD3 0 12).src.lim ∧
    ∃ t, exec .decode (withBytes bytesD3 0 12) = .next t := ⟨by decide, by decide, by decide, _, rfl⟩

/-- The smallest illegal codes: opcode 3 with a legal response code, and response code 6 with the largest legal opcode. -/
theorem witness_DecodeOfAnIllegalCodeLoadsNothing :
    (enoughBytes (withBytes [0, 0, 0x18] 0 12) ∧ 2 < (sourceOpcode (withBytes [0, 0, 0x18] 0 12)).toNat) ∧
    enoughBytes (withBytes [0, 0, 0x10, 6] 0 12) ∧ (sourceOpcode (withBytes [0, 0, 0x10, 6] 0 12)).toNat ≤ 2 ∧
    5 < (sourceRcode (withBytes [0, 0, 0x10, 6] 0 12)).toNat := by
  unfold enoughBytes; decide

theorem witness_DecodeAcceptsExactlyTheLegalWords :
    enoughBytes (withBytes bytesD3 0 12) ∧ enoughBytes (withBytes [0, 0, 0x18] 0 12) := by
  unfold enoughBytes; decide

/-- Two sources that differ in a reserved bit (V-D24 and V-D1), both of which decode. -/
theorem witness_SameHeaderExactlyUpToReservedBits :
    ∃ t t', exec .decode (withBytes [0, 0, 0, 0x40] 0 12) = .next t ∧ t.response = some .ok ∧
      exec .decode (withBytes [] 0 12) = .next t' ∧ t'.response = some .ok := ⟨_, _, rfl, rfl, rfl, rfl⟩

theorem witness_ReservedBitsDoNotMatter :
    (withBytes bytesD3 0 12).src.mem.wf ∧
    (0xF3 : Byte) &&& 0x8F = (withBytes bytesD3 0 12).src.mem.read ((withBytes bytesD3 0 12).src.pos + 3) &&& 0x8F ∧
    ∃ t, exec .decode (withBytes bytesD3 0 12) = .next t := ⟨by decide, by decide, _, rfl⟩

/-- The same twelve bytes at another address, with other bytes around them. -/
theorem witness_DecodeReadsTwelveBytesOnly :
    enoughBytes (withBytes bytesD3 0 12) ∧ enoughBytes (withBytes ([0xEE] ++ bytesD3 ++ [0xEE]) 1 14) ∧
    (∀ k < 12, (withBytes bytesD3 0 12).src.mem.read (0 + k) =
      (withBytes ([0xEE] ++ bytesD3 ++ [0xEE]) 1 14).src.mem.read (1 + k)) ∧
    ∃ t t', exec .decode (withBytes bytesD3 0 12) = .next t ∧
      exec .decode (withBytes ([0xEE] ++ bytesD3 ++ [0xEE]) 1 14) = .next t' :=
  ⟨by unfold enoughBytes; decide, by unfold enoughBytes; decide, by decide, _, _, rfl, rfl⟩

/-- The edges of the ranges: 2 and 3, 5 and 6, 15 and 16. -/
theorem witness_BycodeCommands :
    (2 : Operand).toNat ≤ 2 ∧ (2 < (3 : Operand).toNat ∧ (3 : Operand).toNat ≤ 15) ∧
    (2 < (15 : Operand).toNat ∧ (15 : Operand).toNat ≤ 15) ∧ (5 : Operand).toNat ≤ 5 ∧
    (5 < (6 : Operand).toNat ∧ (6 : Operand).toNat ≤ 15) ∧ 15 < (16 : Operand).toNat := by decide

theorem witness_ByCodeTablesAndInverse :
    2 < (3 : U4).toNat ∧ 5 < (6 : U4).toNat ∧ opcodeByCode 2 = .ok .status ∧ rcodeByCode 5 = .ok .refused := by decide

/-- The premise, and each clause of the order at a boundary: an operand one above the legal ones (on a BYCODE, so that it comes before
`InvalidCodeError`), eleven bytes that hold an illegal opcode (V-D30), both codes illegal (V-D7), the smallest illegal response
code beside the largest legal opcode, the unset opcode, the smallest code without a member of each enumeration; and no error
where DECODE succeeds. -/
theorem witness_ErrorsFollowThePriorityOrder :
    ((withBytes [0, 0, 0x78] 0 11).setHost [.command ⟨0x02, 0⟩]).host = [.command ⟨0x02, 0⟩] ∧
    expectedError ⟨0x03, 16⟩ State.reset .illegalCommand ∧ expectedError ⟨0x05, 0⟩ State.reset .illegalCommand ∧
    expectedError ⟨0x02, 0⟩ (withBytes [0, 0, 0x78] 0 11) .truncatedInput ∧
    expectedError ⟨0x02, 0⟩ (withBytes [0, 0, 0x78, 0x0F] 0 12) (.invalidCode .opcode 15) ∧
    expectedError ⟨0x02, 0⟩ (withBytes [0, 0, 0x10, 6] 0 12) (.invalidCode .responseCode 6) ∧
    expectedError ⟨0x01, 0⟩ State.reset .opcodeUnset ∧
    expectedError ⟨0x03, 3⟩ State.reset (.invalidCode .opcode 3) ∧
    expectedError ⟨0x04, 6⟩ State.reset (.invalidCode .responseCode 6) ∧
    ¬ expectedError ⟨0x02, 0⟩ (withBytes bytesD3 0 12) .truncatedInput := by
  refine ⟨rfl, ?_, ?_, ?_, ?_, ?_, ?_, ?_, ?_, ?_⟩ <;> unfold expectedError legalCommand legalOperand enoughBytes <;> decide

theorem witness_ErrorsHaveNoOtherEffect :
    ∃ t, step (withHost [.command ⟨0x02, 0⟩]) = .next t ∧ t.response = some (.err .truncatedInput) := ⟨_, rfl, rfl⟩

/-- Each error, raised by a command. -/
theorem witness_OutcomesOfACommand :
    (∃ t, exec .decode (withBytes [0, 0, 0x18] 0 12) = .next t ∧ t.response = some (.err (.invalidCode .opcode 3))) ∧
    (∃ t, exec .decode State.reset = .next t ∧ t.response = some (.err .truncatedInput)) ∧
    (∃ t, exec .encode State.reset = .next t ∧ t.response = some (.err .opcodeUnset)) ∧
    (∃ t, exec (.setAa 2) State.reset = .next t ∧ t.response = some (.err .illegalCommand)) ∧
    (∃ t, exec .clear State.reset = .next t) ∧ ∃ t, exec HeaderField.id.getCmd State.reset = .next t :=
  ⟨⟨_, rfl, rfl⟩, ⟨_, rfl, rfl⟩, ⟨_, rfl, rfl⟩, ⟨_, rfl, rfl⟩, ⟨_, rfl⟩, _, rfl⟩

theorem witness_OnlyDecodeMovesThePosition :
    ∃ t, step ((withBytes bytesD3 0 12).setHost [.command ⟨0x02, 0⟩]) = .next t ∧ t.response = some .ok ∧ t.src.pos = 12 :=
  ⟨_, rfl, rfl, rfl⟩

/-- Both ways to clear the set bits. -/
theorem witness_SetBitsAreClearedOnlyByClearAndReset :
    (∃ t, step ((withHeader full).setHost [.reset]) = .next t ∧ full.opcodeSet = true ∧ t.header.opcodeSet = false) ∧
    ∃ t, step ((withHeader full).setHost [.command ⟨0x00, 0⟩]) = .next t ∧ full.rcodeSet = true ∧
      t.header.rcodeSet = false := ⟨⟨_, rfl, rfl, rfl⟩, _, rfl, rfl, rfl⟩

theorem witness_HeaderIsReachedOnlyThroughItsCommands :
    (∃ t, step ((withHeader full).setHost [.command ⟨0x00, 0⟩]) = .next t ∧ t.header ≠ full) ∧
    Instr.decode ≠ .encode ∧ (∀ f : HeaderField, Instr.decode ≠ f.getCmd) ∧ ∃ t t', exec .decode State.reset = .next t ∧
      exec .decode { State.reset with header := full } = .next t' :=
  ⟨⟨_, rfl, by decide⟩, by decide, fun f => by cases f <;> decide, _, _, rfl, rfl⟩

theorem witness_EncodeThenDecodeGivesTheHeaderBack :
    ((withBytes [] 1 13).setHeader full).src.mem.wf ∧ enoughBytes ((withBytes [] 1 13).setHeader full) ∧
    ((withBytes [] 1 13).setHeader full).header.opcode = some .status := by
  unfold enoughBytes; decide

/-- V-D3's bytes, which do not come back, and V-D2's, which do. -/
theorem witness_DecodeThenEncodeKeepsTheRequestSubset :
    (enoughBytes (withBytes bytesD3 0 12) ∧ (sourceOpcode (withBytes bytesD3 0 12)).toNat ≤ 2 ∧
      (sourceRcode (withBytes bytesD3 0 12)).toNat ≤ 5 ∧ sourceWord (withBytes bytesD3 0 12) 1 &&& 0x06FF ≠ 0) ∧
    sourceWord (withBytes [0x12, 0x34, 0x01, 0x00, 0x00, 0x01] 0 12) 1 &&& 0x06FF = 0 := by
  unfold enoughBytes; decide

theorem witness_StepKeepsTheSourceInvariant :
    ((withBytes bytesD3 0 12).setHost [.srcPos 12]).src.mem.wf ∧
    (∃ t, step ((withBytes bytesD3 0 12).setHost [.srcPos 12]) = .next t) ∧
    ((withBytes bytesD3 0 12).setHost [.srcPos 12]).src.pos ≤ ((withBytes bytesD3 0 12).setHost [.srcPos 12]).src.lim ∧
    ((withBytes bytesD3 0 12).setHost [.srcPos 12]).hostKeepsLimit := by
  refine ⟨by decide, ⟨_, rfl⟩, by decide, ?_⟩
  intro e he
  cases he
  exact Nat.le_refl 12

theorem witness_CanonicalMemoriesAreEqualData :
    Memory.wf [(3, 9)] ∧ Memory.wf (Memory.write [] 3 9) ∧ ∀ a, Memory.read [(3, 9)] a = (Memory.write [] 3 9).read a :=
  ⟨by decide, by decide, fun _ => rfl⟩

theorem witness_RegisterViewIsLegal : full.opcodeSet = true ∧ full.rcodeSet = true ∧ Header.empty.opcodeSet = false ∧
    Header.empty.rcodeSet = false := by decide

theorem witness_EncodeOfTheSourceExample : (withHeader { Header.empty with
      id := 0x1234, request := true, opcode := some .query, recursionDesired := true, questionEntries := 1 }).header =
    { Header.empty with id := 0x1234, request := true, opcode := some .query, recursionDesired := true, questionEntries := 1 } :=
  rfl

theorem witness_DecodeOfTwelveZeroBytes :
    enoughBytes (withBytes [] 0 12) ∧ ∀ k < 12, (withBytes [] 0 12).src.mem.read ((withBytes [] 0 12).src.pos + k) = 0 := by
  unfold enoughBytes; decide

end Sys2Proof.Tests
end

section
/-! The command word that an instruction is decoded from: decoding loses nothing of `cw` (R84, R86, R87). -/

namespace Sys2Proof

/-- A command word whose zero bits are 0 is its class and its selector, laid out (R84). -/
theorem layCw_cwClass_cwSel (cw : BitVec 8) (h : cwZero cw = 0) : layCw (cwClass cw) (cwSel cw) = cw := by
  revert cw; decide

/-- A selector that names a field is that field's selector (R86). -/
theorem selector_of_ofSelector (sel : U4) (f : HeaderField) (h : HeaderField.ofSelector sel = some f) :
    f.selector = sel := by
  revert sel; cases f <;> decide

theorem encode_getCmd (f : HeaderField) : encode f.getCmd = encodeGet f := by
  cases f <;> rfl

theorem encode_setCmd (f : HeaderField) (w : Operand) : encode (f.setCmd w) = encodeSet f w := by
  cases f <;> rfl

/-- A control command is encoded with the function number it was read from (R84). -/
theorem encode_cw_of_controlCmd (fn : U4) (w : Operand) (i : Instr) (h : controlCmd fn w = some i) :
    (encode i).cw = layCw 0 fn := by
  have hfn : fn = BitVec.ofNat 4 fn.toNat := by simp
  simp only [controlCmd] at h
  split at h <;> cases h
  all_goals next hn => rw [hfn, hn]; rfl

/-- The encoder gives back the command word that the decoder read. -/
theorem encode_cw_of_decode (c : Command) (i : Instr) (h : decode c = .ok i) : (encode i).cw = c.cw := by
  obtain ⟨cw, w⟩ := c
  simp only [decode] at h
  split at h
  case isFalse => cases h
  case isTrue hz =>
    change (encode i).cw = cw
    rw [← layCw_cwClass_cwSel cw hz]
    split at h
    next hcls =>
      split at h <;> cases h
      next hi => rw [encode_cw_of_controlCmd _ _ _ hi, show cwClass cw = 0 from BitVec.eq_of_toNat_eq hcls]
    next hcls =>
      split at h <;> cases h
      next f hf =>
        rw [encode_getCmd, encodeGet, selector_of_ofSelector _ _ hf, show cwClass cw = 1 from BitVec.eq_of_toNat_eq hcls]
    next hcls =>
      split at h <;> cases h
      next f hf =>
        rw [encode_setCmd, encodeSet, selector_of_ofSelector _ _ hf, show cwClass cw = 2 from BitVec.eq_of_toNat_eq hcls]
    next => cases h

/-- DECODE is the command with word 0x02, whatever its operand (R87). -/
theorem decode_eq_ok_decode (c : Command) : decode c = .ok .decode ↔ c.cw = 0x02 := by
  constructor
  · intro h
    exact (encode_cw_of_decode c .decode h).symm
  · obtain ⟨cw, w⟩ := c
    rintro rfl
    rfl

end Sys2Proof
end

section
/-! How a command changes `SRC` (R31). -/

namespace Sys2Proof.Machine
open Sys2Proof.Machine.Vocabulary

/-- The only error of the unpacking is an invalid code (R155). -/
theorem decodeHeader_error (b : Bytes12) (e : Error) (h : decodeHeader b = .error e) :
    ∃ which code, e = .invalidCode which code := by
  rcases decodeHeader_cases b with ⟨m, r, -, -, hd⟩ | ⟨-, hd⟩ | ⟨-, -, hd⟩ <;> rw [hd] at h <;> cases h
  · exact ⟨.opcode, _, rfl⟩
  · exact ⟨.responseCode, _, rfl⟩

/-- A command other than DECODE leaves the whole byte source as it was (R31). -/
theorem exec_src_of_ne_decode (i : Instr) (s t : State) (hi : i ≠ .decode) (h : exec i s = .next t) : t.src = s.src := by
  rcases exec_inversion i s t h with ⟨-, rfl⟩ | ⟨-, r, rfl⟩ | ⟨rfl, -⟩ | ⟨-, r, rfl⟩ | ⟨-, r, rfl, -⟩ |
    ⟨f, w, -, ⟨-, h', rfl⟩ | ⟨-, rfl⟩⟩
  case inr.inr.inl => exact absurd rfl hi
  all_goals rfl

/-- A command word other than DECODE's leaves the position as it was (R31). -/
theorem positionAfter_of_ne (c : Command) (r : Response) (pos : Nat) (hc : c.cw ≠ 0x02) : positionAfter c r pos = pos :=
  if_neg hc

/-- A command moves the position of the byte source by what its outcome says, and leaves its memory and its limit (R31). -/
theorem runCommand_src (c : Command) (r : Response) (s t : State) (h : runCommand c s = .next t) (hr : t.response = some r) :
    t.src = { s.src with pos := positionAfter c r s.src.pos } := by
  by_cases hc : c.cw = 0x02
  · rw [runCommand, (decode_eq_ok_decode c).mpr hc] at h
    rcases (execDecode_eq_next s t).mp h with ⟨-, rfl⟩ | ⟨-, e, he, rfl⟩ | ⟨-, h', -, rfl⟩ <;> cases hr
    · simp [positionAfter]
    · obtain ⟨which, code, rfl⟩ := decodeHeader_error _ _ he
      simp [positionAfter, hc, Source.advance]
    · simp [positionAfter, hc, Source.advance]
  · rw [positionAfter_of_ne c r _ hc]
    rw [runCommand] at h
    split at h
    next i hi =>
      refine exec_src_of_ne_decode i s t ?_ h
      rintro rfl
      exact hc ((decode_eq_ok_decode c).mp hi)
    next => rw [(raise_eq_next _ _ _).mp h, setResponse_src]

/-- Settles O40: the step runs the command at the head of the schedule, and the command changes `SRC` only by `positionAfter`. -/
theorem onlyDecodeMovesThePosition : Obligations.OnlyDecodeMovesThePosition := by
  intro s t c rest r hs h hr
  rw [step_event s _ rest hs] at h
  rw [runCommand_src c r (s.setHost rest) t h hr]
  exact ⟨rfl, rfl, rfl⟩

end Sys2Proof.Machine
end

section
/-! The command code table of R87 is the graph of the decoder, and an operand outside its legality column (R85) is refused by
the meaning of the command. -/

namespace Sys2Proof.Machine
open Sys2Proof.Machine.Vocabulary

/-! ## The table and the decoder -/

/-- The words of the rows do not depend on the operand at which the table is written out. -/
theorem map_fst_commandTable (w : Operand) : (commandTable w).map Prod.fst = listedCws := rfl

/-- Every row of the table decodes to its command. -/
theorem decode_of_mem_commandTable (w : Operand) : ∀ row ∈ commandTable w, decode ⟨row.1, w⟩ = .ok row.2 := by
  intro row hrow
  fin_cases hrow <;> dsimp only <;> rfl

/-- The GET and the SET of every field have listed words (R84, R86). -/
theorem layCw_selector_mem_listedCws (f : HeaderField) :
    layCw 1 f.selector ∈ listedCws ∧ layCw 2 f.selector ∈ listedCws := by
  cases f <;> decide

/-- The encoder gives listed words only. -/
theorem encode_cw_mem_listedCws (i : Instr) : (encode i).cw ∈ listedCws := by
  rcases instr_cases i with rfl | rfl | rfl | ⟨w, rfl⟩ | ⟨w, rfl⟩ | ⟨f, rfl⟩ | ⟨f, w, rfl⟩
  · decide
  · decide
  · decide
  · exact (by decide : layCw 0 3 ∈ listedCws)
  · exact (by decide : layCw 0 4 ∈ listedCws)
  · rw [encode_getCmd]
    exact (layCw_selector_mem_listedCws f).1
  · rw [encode_setCmd]
    exact (layCw_selector_mem_listedCws f).2

/-- The decoder reads `i` from exactly the row of `i` (R87). -/
theorem decode_eq_ok_iff (c : Command) (i : Instr) : decode c = .ok i ↔ (c.cw, i) ∈ commandTable c.wdata := by
  constructor
  · intro h
    have hcw : c.cw ∈ (commandTable c.wdata).map Prod.fst := by
      rw [map_fst_commandTable, ← encode_cw_of_decode c i h]
      exact encode_cw_mem_listedCws i
    obtain ⟨⟨cw, j⟩, hrow, rfl⟩ := List.mem_map.mp hcw
    have hj : decode c = .ok j := decode_of_mem_commandTable c.wdata _ hrow
    cases hj.symm.trans h
    exact hrow
  · exact decode_of_mem_commandTable c.wdata (c.cw, i)

/-- Settles O1: the rows decode, and what decodes is a row. -/
theorem commandTableIsComplete : Obligations.CommandTableIsComplete := by
  intro w
  refine ⟨rfl, decode_of_mem_commandTable w, fun cw hcw => ?_⟩
  rcases hd : decode ⟨cw, w⟩ with e | i
  · exact ⟨e, rfl⟩
  · exact absurd rfl (hcw _ ((decode_eq_ok_iff _ _).mp hd))

/-! ## Illegal commands -/

/-- The legality column by command word is the operand legality of the row's command (R85). -/
theorem wellFormed_iff_legalOperand (w : Operand) :
    ∀ row ∈ commandTable w, row.2.wellFormed = true ↔ legalOperand row.1 w := by
  simp [commandTable, legalOperand, Instr.wellFormed, Operand.isBool, Operand.isOpcode, Operand.isRcode, Operand.isCode]

/-- A command that decodes is legal exactly when its operand is well formed. -/
theorem legalCommand_iff_wellFormed (c : Command) (i : Instr) (h : decode c = .ok i) :
    legalCommand c ↔ i.wellFormed = true := by
  have hrow := (decode_eq_ok_iff c i).mp h
  have hcw : c.cw ∈ listedCws := by
    rw [← map_fst_commandTable c.wdata]
    exact List.mem_map_of_mem hrow
  rw [wellFormed_iff_legalOperand c.wdata _ hrow]
  exact and_iff_right hcw

/-- The meaning of a command refuses an operand outside the legality column, and changes nothing but the response (R184). -/
theorem exec_of_not_wellFormed (i : Instr) (s : State) (h : ¬ i.wellFormed = true) :
    exec i s = .next (s.setResponse (some (.err .illegalCommand))) := by
  rcases instr_cases i with rfl | rfl | rfl | ⟨w, rfl⟩ | ⟨w, rfl⟩ | ⟨f, rfl⟩ | ⟨f, w, rfl⟩
  · exact absurd rfl h
  · exact absurd rfl h
  · exact absurd rfl h
  · exact (execBycodeOpcode_eq_next w s _).mpr (.inl ⟨by simpa [Instr.wellFormed, Operand.isCode] using h, rfl⟩)
  · exact (execBycodeRcode_eq_next w s _).mpr (.inl ⟨by simpa [Instr.wellFormed, Operand.isCode] using h, rfl⟩)
  · exact absurd (by cases f <;> rfl) h
  · rcases exec_setCmd f w s with ⟨hw, -⟩ | ⟨-, he⟩
    · exact absurd hw h
    · exact he

/-- An illegal command, by its word or by its operand, changes nothing but the response (R88). -/
theorem runCommand_of_not_legalCommand (c : Command) (s : State) (h : ¬ legalCommand c) :
    runCommand c s = .next (s.setResponse (some (.err .illegalCommand))) := by
  rcases hd : decode c with e | i
  · rw [runCommand, hd]
    rfl
  · rw [runCommand, hd]
    exact exec_of_not_wellFormed i s (mt (legalCommand_iff_wellFormed c i hd).mpr h)

/-- The unlisted command words are three ranges (R88). -/
theorem not_mem_listedCws_iff : ∀ cw : BitVec 8, cw ∉ listedCws ↔
    (0x05 ≤ cw ∧ cw ≤ 0x3F) ∨ (0x4C ≤ cw ∧ cw ≤ 0x7F) ∨ (0x8C ≤ cw ∧ cw ≤ 0xFF) := by
  decide

/-- Settles O3: a reserved word does not decode, and an illegal operand is refused by the command's meaning. -/
theorem illegalCommandsChangeNothing : Obligations.IllegalCommandsChangeNothing := by
  refine ⟨not_mem_listedCws_iff, rfl, fun s c rest hs hc => ?_⟩
  rw [step_event s _ rest hs]
  exact runCommand_of_not_legalCommand c (s.setHost rest) hc

end Sys2Proof.Machine
end

section
/-! A GET reads one field of `H` and changes nothing (spec/40_header_access.md R101, R103 to R114). -/

namespace Sys2Proof.Machine
open Sys2Proof.Machine.Vocabulary

/-! ## The records at the ports, as the spec writes them -/

theorem port_ok : Response.ok.port = portOk := rfl

theorem port_okWord (v : U16) : (Response.okWord v).port = portValue v := rfl

theorem port_okBool (b : Bool) : (Response.okBool b).port = portValue (if b then 1 else 0) := rfl

/-! ## GET, once for every field -/

/-- The response to the GET of a field (R101). -/
def getResponse (f : HeaderField) (h : Header) : Response :=
  match f with
  | .id => .okWord h.id
  | .request => .okBool h.request
  | .opcode => .okOpcode h.opcode
  | .authoritativeAnswer => .okBool h.authoritativeAnswer
  | .truncated => .okBool h.truncated
  | .recursionDesired => .okBool h.recursionDesired
  | .recursionAvailable => .okBool h.recursionAvailable
  | .responseCode => .okRcode h.responseCode
  | .questionEntries => .okWord h.questionEntries
  | .answerEntries => .okWord h.answerEntries
  | .authorityRecords => .okWord h.authorityRecords
  | .additionalRecords => .okWord h.additionalRecords

/-- The GET of a field is read from its word whatever the operand is (R84, R86). -/
theorem decode_layCw_one (f : HeaderField) (w : Operand) : decode ⟨layCw 1 f.selector, w⟩ = .ok f.getCmd := by
  cases f <;> rfl

/-- The GET of a field answers that field's value, and only the response differs after it (R101). -/
theorem exec_getCmd_eq (f : HeaderField) (s : State) :
    exec f.getCmd s = .next (s.setResponse (some (getResponse f s.header))) := by
  cases f <;> rfl

/-- The GET of every field has the form the statements give it, at the ports that its response shows. -/
theorem isGet_getCmd (f : HeaderField) (port : Header → ResponsePort) (hport : ∀ h, (getResponse f h).port = port h) :
    IsGet (layCw 1 f.selector) f.getCmd (getResponse f) port :=
  ⟨decode_layCw_one f, exec_getCmd_eq f, hport⟩

/-- Reset and CLEAR leave the same Header, the empty one (R201). -/
theorem header_of_justEmptied (t : State) (ht : JustEmptied t) : t.header = Header.empty := by
  rcases ht with rfl | ⟨s, hs⟩
  · exact reset_header
  · rw [(respond_eq_next _ _ _).mp hs, setResponse_header, setHeader_header]

/-- After reset or CLEAR every GET answers the value of the empty Header. -/
theorem exec_getCmd_of_justEmptied (f : HeaderField) (t : State) (ht : JustEmptied t) :
    exec f.getCmd t = .next (t.setResponse (some (getResponse f Header.empty))) := by
  rw [exec_getCmd_eq, header_of_justEmptied t ht]

/-- The Header that DECODE unpacks has both enumeration fields set (R154). -/
theorem decodeHeader_ok_set (b : Bytes12) (h : Header) (hd : decodeHeader b = .ok h) :
    ∃ m r, h.opcode = some m ∧ h.responseCode = some r := by
  rcases decodeHeader_cases b with ⟨m, r, -, -, he⟩ | ⟨-, he⟩ | ⟨-, -, he⟩ <;> rw [he] at hd <;> cases hd
  exact ⟨m, r, rfl, rfl⟩

/-- A DECODE that answers `ok` sets both enumeration fields (R27, R154). -/
theorem execDecode_ok_set (s t : State) (h : execDecode s = .next t) (hr : t.response = some .ok) :
    ∃ m r, t.header.opcode = some m ∧ t.header.responseCode = some r := by
  rcases (execDecode_eq_next s t).mp h with ⟨-, rfl⟩ | ⟨-, e, -, rfl⟩ | ⟨-, h', hd, rfl⟩ <;> cases hr
  exact decodeHeader_ok_set _ _ hd

/-! ## The statements about GET -/

/-- Settles O13: each of the five is the GET of its field, and the empty Header holds 0 there. -/
theorem getWordCommands : Obligations.GetWordCommands := by
  refine ⟨isGet_getCmd .id _ fun h => port_okWord _, isGet_getCmd .questionEntries _ fun h => port_okWord _,
    isGet_getCmd .answerEntries _ fun h => port_okWord _, isGet_getCmd .authorityRecords _ fun h => port_okWord _,
    isGet_getCmd .additionalRecords _ fun h => port_okWord _, fun t ht => ?_⟩
  have get := fun f => exec_getCmd_of_justEmptied f t ht
  exact ⟨get .id, get .questionEntries, get .answerEntries, get .authorityRecords, get .additionalRecords⟩

/-- Settles O14: each of the five is the GET of its field, and the empty Header holds false there. -/
theorem getBoolCommands : Obligations.GetBoolCommands := by
  refine ⟨isGet_getCmd .request _ fun h => port_okBool _, isGet_getCmd .authoritativeAnswer _ fun h => port_okBool _,
    isGet_getCmd .truncated _ fun h => port_okBool _, isGet_getCmd .recursionDesired _ fun h => port_okBool _,
    isGet_getCmd .recursionAvailable _ fun h => port_okBool _, fun t ht => ?_⟩
  have get := fun f => exec_getCmd_of_justEmptied f t ht
  exact ⟨get .request, get .authoritativeAnswer, get .truncated, get .recursionDesired, get .recursionAvailable⟩

/-- Settles O15: both are the GET of their field, at the ports by cases on the member read; a DECODE that answers `ok` has set
both fields. -/
theorem getEnumerationCommands : Obligations.GetEnumerationCommands := by
  refine ⟨isGet_getCmd .opcode _ fun h => ?opcodePort, isGet_getCmd .responseCode _ fun h => ?rcodePort, fun t ht =>
    ⟨exec_getCmd_of_justEmptied .opcode t ht, exec_getCmd_of_justEmptied .responseCode t ht⟩, fun s t h hr => ?decoded⟩
  case opcodePort =>
    change (Response.okOpcode h.opcode).port = _
    rcases h.opcode with _ | m
    · rfl
    · cases m <;> rfl
  case rcodePort =>
    change (Response.okRcode h.responseCode).port = _
    rcases h.responseCode with _ | m
    · rfl
    · cases m <;> rfl
  case decoded =>
    obtain ⟨m, r, hm, hc⟩ := execDecode_ok_set s t h hr
    refine ⟨m, r, ?_, ?_⟩
    · rw [← hm]; exact exec_getCmd_eq .opcode t
    · rw [← hc]; exact exec_getCmd_eq .responseCode t

end Sys2Proof.Machine
end

section
/-! A SET writes one field of `H` where its operand is legal, and nothing else (spec/40_header_access.md R102, R115 to R126). -/

namespace Sys2Proof.Machine
open Sys2Proof.Machine.Vocabulary

/-! ## SET, once for every field -/

/-- The Header after the SET of a field, where the operand is legal (R102). -/
def setResult (f : HeaderField) (w : Operand) (h : Header) : Option Header :=
  match f with
  | .id => some (h.setId (trunc16 w))
  | .request => (boolOperand w).map h.setRequest
  | .opcode => (opcodeOperand w).map fun m => h.setOpcode (some m)
  | .authoritativeAnswer => (boolOperand w).map h.setAuthoritativeAnswer
  | .truncated => (boolOperand w).map h.setTruncated
  | .recursionDesired => (boolOperand w).map h.setRecursionDesired
  | .recursionAvailable => (boolOperand w).map h.setRecursionAvailable
  | .responseCode => (rcodeOperand w).map fun m => h.setResponseCode (some m)
  | .questionEntries => some (h.setQuestionEntries (trunc16 w))
  | .answerEntries => some (h.setAnswerEntries (trunc16 w))
  | .authorityRecords => some (h.setAuthorityRecords (trunc16 w))
  | .additionalRecords => some (h.setAdditionalRecords (trunc16 w))

/-- The SET of a field is read from its word with its operand (R84, R86). -/
theorem decode_layCw_two (f : HeaderField) (w : Operand) : decode ⟨layCw 2 f.selector, w⟩ = .ok (f.setCmd w) := by
  cases f <;> rfl

/-- What a legal operand makes may be made before the operand check or after it. -/
theorem withOperand_map {α β : Type} (o : Option α) (put : α → β) (s : State)
    (run : β → Host.Outcome State Fault Refusal) :
    withOperand (o.map put) s run = withOperand o s fun v => run (put v) := by
  cases o <;> rfl

/-- The SET of a field loads the Header that its operand makes, or is an illegal command (R102). -/
theorem exec_setCmd_eq (f : HeaderField) (w : Operand) (s : State) :
    exec (f.setCmd w) s = withOperand (setResult f w s.header) s fun h => respond .ok (s.setHeader h) := by
  cases f
  case request | opcode | authoritativeAnswer | truncated | recursionDesired | recursionAvailable | responseCode =>
    rw [setResult, withOperand_map]
    rfl
  case id | questionEntries | answerEntries | authorityRecords | additionalRecords => rfl

/-- A SET with a legal operand answers `ok`, and only the Header and the response differ after it. -/
theorem exec_setCmd_of_some (f : HeaderField) (w : Operand) (s : State) (h : Header)
    (hres : setResult f w s.header = some h) :
    exec (f.setCmd w) s = .next ((s.setHeader h).setResponse (some .ok)) := by
  rw [exec_setCmd_eq, hres]
  rfl

/-- What a SET leaves is a legal operand's Header, or the Header as it was. -/
theorem header_of_exec_setCmd (f : HeaderField) (w : Operand) (s t : State) (h : exec (f.setCmd w) s = .next t) :
    setResult f w s.header = some t.header ∨ t.header = s.header := by
  rw [exec_setCmd_eq, withOperand_eq_next] at h
  rcases h with ⟨h', hres, ht⟩ | ⟨-, rfl⟩
  · rw [(respond_eq_next _ _ _).mp ht]
    exact .inl hres
  · exact .inr rfl

/-! ## The operands of the enumeration fields -/

/-- An operand stands for the Opcode member with that code (R76). -/
theorem opcodeOperand_eq_some (w : Operand) (m : Opcode) :
    opcodeOperand w = some m ↔ w.toNat = (opcodeCode m).toNat := by
  simp only [opcodeOperand]
  split <;> cases m <;> simp_all [opcodeCode]

/-- An operand stands for the ResponseCode member with that code (R77). -/
theorem rcodeOperand_eq_some (w : Operand) (m : ResponseCode) :
    rcodeOperand w = some m ↔ w.toNat = (rcodeCode m).toNat := by
  simp only [rcodeOperand]
  split <;> cases m <;> simp_all [rcodeCode]

/-- Every operand up to 2 stands for an Opcode member (R85). -/
theorem exists_opcodeOperand (w : Operand) (hw : w.toNat ≤ 2) : ∃ m, opcodeOperand w = some m :=
  Option.isSome_iff_exists.mp (by rw [opcodeOperand_isSome]; exact decide_eq_true hw)

/-- Every operand up to 5 stands for a ResponseCode member (R85). -/
theorem exists_rcodeOperand (w : Operand) (hw : w.toNat ≤ 5) : ∃ m, rcodeOperand w = some m :=
  Option.isSome_iff_exists.mp (by rw [rcodeOperand_isSome]; exact decide_eq_true hw)

/-! ## ENCODE beside a SET -/

/-- ENCODE answers the same in two states whose Headers have the same encoding (R146). -/
theorem exec_encode_of_encodeHeader_eq (s t : State) (h : encodeHeader t.header = encodeHeader s.header) :
    ∃ r, exec .encode s = .next (s.setResponse (some r)) ∧ exec .encode t = .next (t.setResponse (some r)) := by
  simp only [exec, execEncode, h]
  rcases encodeHeader s.header with e | b
  · exact ⟨_, rfl, rfl⟩
  · exact ⟨_, rfl, rfl⟩

/-- With the opcode set ENCODE answers with bytes (R140). -/
theorem exec_encode_of_opcode (s : State) (m : Opcode) (hm : s.header.opcode = some m) :
    ∃ b, exec .encode s = .next (s.setResponse (some (.okBytes b))) :=
  ⟨_, (execEncode_eq_next s _).mpr (.inr ⟨_, (encodeHeader_eq_ok _ _).mpr ⟨m, hm, rfl⟩, rfl⟩)⟩

/-- A field that the encoding does not read is not emitted (R142). -/
theorem notEmitted_setCmd (f : HeaderField)
    (hf : ∀ w h h', setResult f w h = some h' → encodeHeader h' = encodeHeader h) : NotEmitted f.setCmd := by
  intro w s t h
  refine exec_encode_of_encodeHeader_eq s t ?_
  rcases header_of_exec_setCmd f w s t h with hres | heq
  · exact hf w _ _ hres
  · rw [heq]

/-- Where no value put into a field changes the encoding, no checked operand does (R142). -/
theorem encodeHeader_of_map_eq_some {α : Type} (o : Option α) (put : α → Header) (h h' : Header)
    (hput : ∀ v, encodeHeader (put v) = encodeHeader h) (ho : o.map put = some h') : encodeHeader h' = encodeHeader h := by
  obtain ⟨v, -, rfl⟩ := Option.map_eq_some_iff.mp ho
  exact hput v

/-! ## The two shared forms of the statements -/

/-- A field that stores its operand's low 16 bits has the form of a 16-bit SET (R102 (a)). -/
theorem isSetWord_setCmd (f : HeaderField) (put : Header → U16 → Header)
    (hf : ∀ w h, setResult f w h = some (put h (trunc16 w))) : IsSetWord (layCw 2 f.selector) f.setCmd put := by
  refine ⟨decode_layCw_two f, fun w s => ?_⟩
  rw [BitVec.ofNat_toNat]
  exact exec_setCmd_of_some f w s _ (hf w s.header)

/-- A field that stores a boolean operand has the form of a boolean SET (R102 (b)). -/
theorem isSetBool_setCmd (f : HeaderField) (put : Header → Bool → Header)
    (hf : ∀ w h, setResult f w h = (boolOperand w).map (put h))
    (hget : ∀ h b, getResponse f (put h b) = .okBool b)
    (hlegal : ∀ w, (f.setCmd w).wellFormed = w.isBool) : IsSetBool (layCw 2 f.selector) f.setCmd f.getCmd put := by
  have stores (b : Bool) (s : State) : exec (f.setCmd (if b then 1 else 0)) s =
      .next ((s.setHeader (put s.header b)).setResponse (some .ok)) :=
    exec_setCmd_of_some f _ s _ (by rw [hf, (boolOperand_eq_some _ b).mpr rfl, Option.map_some])
  refine ⟨decode_layCw_two f, stores false, stores true, fun b s t h => ?readBack, fun w s hw => ?illegal⟩
  case readBack =>
    rw [stores b s] at h
    cases h
    rw [exec_getCmd_eq, setResponse_header, setHeader_header, hget]
    rfl
  case illegal =>
    refine exec_of_not_wellFormed _ s ?_
    rw [hlegal, Operand.isBool, decide_eq_true_iff]
    omega

/-! ## The statements about SET -/

/-- Settles O16: each of the five stores its operand's low 16 bits. -/
theorem setWordCommands : Obligations.SetWordCommands :=
  ⟨isSetWord_setCmd .id _ fun _ _ => rfl, isSetWord_setCmd .questionEntries _ fun _ _ => rfl,
    isSetWord_setCmd .answerEntries _ fun _ _ => rfl, isSetWord_setCmd .authorityRecords _ fun _ _ => rfl,
    isSetWord_setCmd .additionalRecords _ fun _ _ => rfl⟩

/-- Settles O17: each of the five stores a boolean operand, and the encoding does not read AA, TC or RA. -/
theorem setBoolCommands : Obligations.SetBoolCommands :=
  ⟨isSetBool_setCmd .request _ (fun _ _ => rfl) (fun _ _ => rfl) fun _ => rfl,
    isSetBool_setCmd .authoritativeAnswer _ (fun _ _ => rfl) (fun _ _ => rfl) fun _ => rfl,
    isSetBool_setCmd .truncated _ (fun _ _ => rfl) (fun _ _ => rfl) fun _ => rfl,
    isSetBool_setCmd .recursionDesired _ (fun _ _ => rfl) (fun _ _ => rfl) fun _ => rfl,
    isSetBool_setCmd .recursionAvailable _ (fun _ _ => rfl) (fun _ _ => rfl) fun _ => rfl,
    notEmitted_setCmd .authoritativeAnswer fun _ h h' => encodeHeader_of_map_eq_some _ _ h h' fun _ => rfl,
    notEmitted_setCmd .truncated fun _ h h' => encodeHeader_of_map_eq_some _ _ h h' fun _ => rfl,
    notEmitted_setCmd .recursionAvailable fun _ h h' => encodeHeader_of_map_eq_some _ _ h h' fun _ => rfl⟩

/-- Settles O18: a legal operand stores the member with its code, which is what ENCODE needs. -/
theorem setOpcodeCommand : Obligations.SetOpcodeCommand := by
  refine ⟨decode_layCw_two .opcode, fun s => exec_setCmd_of_some .opcode 0 s _ rfl,
    fun s => exec_setCmd_of_some .opcode 1 s _ rfl, fun s => exec_setCmd_of_some .opcode 2 s _ rfl,
    fun w s hw => ?illegal, fun w s t hw h => ?legal⟩
  case illegal =>
    exact exec_of_not_wellFormed _ s (by simpa [Instr.wellFormed, Operand.isOpcode] using hw)
  case legal =>
    obtain ⟨m, hm⟩ := exists_opcodeOperand w hw
    have hset := exec_setCmd_of_some .opcode w s (s.header.setOpcode (some m)) (by rw [setResult, hm, Option.map_some])
    cases h.symm.trans hset
    refine ⟨rfl, ?_, exec_encode_of_opcode _ m rfl⟩
    rw [(opcodeOperand_eq_some w m).mp hm, BitVec.ofNat_toNat, BitVec.setWidth_eq]
    rfl

/-- Settles O19: a legal operand stores the member with its code, and the encoding does not read it. -/
theorem setRcodeCommand : Obligations.SetRcodeCommand := by
  refine ⟨decode_layCw_two .responseCode, fun s => exec_setCmd_of_some .responseCode 0 s _ rfl,
    fun s => exec_setCmd_of_some .responseCode 1 s _ rfl, fun s => exec_setCmd_of_some .responseCode 2 s _ rfl,
    fun s => exec_setCmd_of_some .responseCode 3 s _ rfl, fun s => exec_setCmd_of_some .responseCode 4 s _ rfl,
    fun s => exec_setCmd_of_some .responseCode 5 s _ rfl, fun w s hw => ?illegal,
    notEmitted_setCmd .responseCode fun _ h h' => encodeHeader_of_map_eq_some _ _ h h' fun _ => rfl,
    fun w s t hw h => ?legal⟩
  case illegal =>
    exact exec_of_not_wellFormed _ s (by simpa [Instr.wellFormed, Operand.isRcode] using hw)
  case legal =>
    obtain ⟨m, hm⟩ := exists_rcodeOperand w hw
    have hset := exec_setCmd_of_some .responseCode w s (s.header.setResponseCode (some m))
      (by rw [setResult, hm, Option.map_some])
    cases h.symm.trans hset
    have hcode := (rcodeOperand_eq_some w m).mp hm
    refine ⟨rfl, ?_, m, hcode.symm, exec_getCmd_eq .responseCode _⟩
    rw [hcode, BitVec.ofNat_toNat, BitVec.setWidth_eq]
    rfl

end Sys2Proof.Machine
end

section
/-! CLEAR makes the empty Header, and is the only command that unsets an enumeration field (spec/40_header_access.md R100). -/

namespace Sys2Proof.Machine
open Sys2Proof.Machine.Vocabulary

/-- Every enumeration field that is set before is set after. -/
def KeepsEnumerations (h h' : Header) : Prop :=
  (h.opcode ≠ none → h'.opcode ≠ none) ∧ (h.responseCode ≠ none → h'.responseCode ≠ none)

theorem KeepsEnumerations.of_eq {h h' : Header} (e : h' = h) : KeepsEnumerations h h' := by
  subst e
  exact ⟨id, id⟩

/-- A Header with both fields set keeps whatever was set before. -/
theorem KeepsEnumerations.of_set {h h' : Header} (hs : ∃ m r, h'.opcode = some m ∧ h'.responseCode = some r) :
    KeepsEnumerations h h' := by
  obtain ⟨m, r, hm, hr⟩ := hs
  exact ⟨fun _ => by simp [hm], fun _ => by simp [hr]⟩

/-- No SET writes `unset` (R102). -/
theorem setResult_keepsEnumerations (f : HeaderField) (w : Operand) (h h' : Header) (hres : setResult f w h = some h') :
    KeepsEnumerations h h' := by
  cases f
  case opcode =>
    obtain ⟨m, -, rfl⟩ := Option.map_eq_some_iff.mp hres
    exact ⟨fun _ => Option.some_ne_none m, id⟩
  case responseCode =>
    obtain ⟨m, -, rfl⟩ := Option.map_eq_some_iff.mp hres
    exact ⟨id, fun _ => Option.some_ne_none m⟩
  case request | authoritativeAnswer | truncated | recursionDesired | recursionAvailable =>
    obtain ⟨b, -, rfl⟩ := Option.map_eq_some_iff.mp hres
    exact ⟨id, id⟩
  case id | questionEntries | answerEntries | authorityRecords | additionalRecords =>
    cases hres
    exact ⟨id, id⟩

/-- DECODE leaves `H` as it was, or loads a Header with both fields set (R154, R157). -/
theorem execDecode_keepsEnumerations (s t : State) (h : execDecode s = .next t) : KeepsEnumerations s.header t.header := by
  rcases (execDecode_eq_next s t).mp h with ⟨-, rfl⟩ | ⟨-, e, -, rfl⟩ | ⟨-, h', hd, rfl⟩
  · exact .of_eq rfl
  · exact .of_eq rfl
  · exact .of_set (decodeHeader_ok_set _ _ hd)

/-- Every command but CLEAR keeps the enumeration fields set. -/
theorem exec_keepsEnumerations (i : Instr) (s t : State) (hi : i ≠ .clear) (h : exec i s = .next t) :
    KeepsEnumerations s.header t.header := by
  rcases exec_inversion i s t h with ⟨rfl, -⟩ | ⟨-, r, rfl⟩ | ⟨rfl, -⟩ | ⟨-, r, rfl⟩ | ⟨-, r, rfl, -⟩ | ⟨f, w, rfl, -⟩
  · exact absurd rfl hi
  · exact .of_eq rfl
  · exact execDecode_keepsEnumerations s t h
  · exact .of_eq rfl
  · exact .of_eq rfl
  · rcases header_of_exec_setCmd f w s t h with hres | heq
    · exact setResult_keepsEnumerations f w _ _ hres
    · exact .of_eq heq

/-- Settles O12: the effect is the empty Header's load, and every other command keeps the enumeration fields set. -/
theorem clearConstructsAnEmptyHeader : Obligations.ClearConstructsAnEmptyHeader := by
  refine ⟨fun w => decode_of_mem_commandTable w (0x00, .clear) List.mem_cons_self, fun s => rfl, fun s t h => ?header,
    port_ok, rfl, fun i s t h hunset => ?onlyClear⟩
  case header =>
    rw [header_of_justEmptied t (.inr ⟨s, h⟩)]
    exact ⟨rfl, rfl, rfl, rfl, rfl⟩
  case onlyClear =>
    by_contra hi
    obtain ⟨hopcode, hrcode⟩ := exec_keepsEnumerations i s t hi h
    rcases hunset with ⟨hset, hnone⟩ | ⟨hset, hnone⟩
    · exact hopcode hset hnone
    · exact hrcode hset hnone

end Sys2Proof.Machine
end

section
/-! ENCODE lays out six words, the second of them packed from three fields of `H`, and changes nothing
(spec/41_encode.md R140 to R148). -/

namespace Sys2Proof.Machine
open Sys2Proof.Machine.Vocabulary

/-! ## The byte layout (R143) -/

/-- The two bytes a store writes are the word in numbers, high part first (R53). -/
theorem wordBytes_eq_bigEndian (w : U16) : wordBytes w = bigEndian w := by
  rw [wordBytes, bigEndian, ← hi8_toNat, ← lo8_toNat, BitVec.ofNat_toNat, BitVec.ofNat_toNat, BitVec.setWidth_eq,
    BitVec.setWidth_eq]

theorem toList_layout (w0 w1 w2 w3 w4 w5 : U16) : (layout w0 w1 w2 w3 w4 w5).toList =
    bigEndian w0 ++ bigEndian w1 ++ bigEndian w2 ++ bigEndian w3 ++ bigEndian w4 ++ bigEndian w5 := by
  simp only [← wordBytes_eq_bigEndian]
  rfl

/-- Each of the twelve offsets lies in exactly one of the six stores, so nothing of the old sink is left. -/
theorem sixStores_eq_layout (snk : Bytes12) (w0 w1 w2 w3 w4 w5 : U16) :
    sixStores snk w0 w1 w2 w3 w4 w5 = layout w0 w1 w2 w3 w4 w5 := by
  ext i hi
  simp only [sixStores, getElem_sinkWrite]
  interval_cases i <;> rfl

/-- Settles O25: the layout's bytes are those of its words, and the six stores cover every offset. -/
theorem sixStoresMakeTheLayout : Obligations.SixStoresMakeTheLayout :=
  ⟨toList_layout, sixStores_eq_layout⟩

/-! ## The bit-packer (R141, R142) -/

/-- The packer's three terms in numbers: each lies below the lowest bit of the term before it, so their or is their sum. -/
theorem packFlags_toNat (q : Bool) (c : U4) (rd : Bool) :
    (packFlags q c rd).toNat = (if q then 0 else 32768) + c.toNat * 2048 + (if rd then 256 else 0) := by
  have hrd : (if rd then 256 else 0) < 2 ^ 11 := by split <;> omega
  have hlow : 2 ^ 11 * c.toNat + (if rd then 256 else 0) < 2 ^ 15 := by omega
  have hq : (((if q then 0 else 1) <<< 15 : Nat) : U16).toNat = 2 ^ 15 * if q then 0 else 1 := by cases q <;> rfl
  have hc : (c.setWidth 16 <<< 11 : U16).toNat = 2 ^ 11 * c.toNat := by
    simp only [BitVec.toNat_shiftLeft, BitVec.toNat_setWidth, Nat.shiftLeft_eq]
    omega
  have hb : (b2i rd <<< 8).toNat = if rd then 256 else 0 := by cases rd <;> rfl
  rw [packFlags, BitVec.toNat_or, BitVec.toNat_or, hq, hc, hb, Nat.or_assoc, ← Nat.two_pow_add_eq_or_of_lt hrd,
    ← Nat.two_pow_add_eq_or_of_lt hlow]
  split <;> omega

/-- On the members' codes the packer's words are the table of twelve (R141). -/
theorem packFlags_opcodeCode (q : Bool) (m : Opcode) (rd : Bool) : packFlags q (opcodeCode m) rd = flagTable q m rd := by
  cases q <;> cases m <;> cases rd <;> rfl

/-- The packer leaves bits 10 and 9, those of AA and TC, at 0 (R142). -/
theorem hi8_packFlags_and_six : ∀ (q : Bool) (c : U4) (rd : Bool), hi8 (packFlags q c rd) &&& 0x06 = 0 := by
  decide

/-- The packer leaves bits 7 to 0, those of RA, Z and RCODE, at 0: every term is a multiple of 256 (R142). -/
theorem lo8_packFlags (q : Bool) (c : U4) (rd : Bool) : lo8 (packFlags q c rd) = 0 := by
  apply BitVec.eq_of_toNat_eq
  rw [lo8_toNat, packFlags_toNat]
  change _ = 0
  split <;> split <;> omega

/-- Settles O23: the formula is the packer's own, its terms add up, and the table is the packer's at the members' codes. -/
theorem bitPackerFormulaAndTable : Obligations.BitPackerFormulaAndTable := by
  refine ⟨fun q c rd => ⟨?_, packFlags_toNat q c rd⟩, packFlags_opcodeCode⟩
  rw [BitVec.ofNat_toNat]
  cases rd <;> rfl

/-! ## ENCODE (R140, R145, R146) -/

/-- The response to ENCODE, from the Header alone (R146). -/
def encodeResponse (h : Header) : Response :=
  match encodeHeader h with
  | .error e => .err e
  | .ok b => .okBytes b

/-- ENCODE answers `encodeResponse` of the Header, and only the response differs after it (R140). -/
theorem exec_encode_eq (s : State) : exec .encode s = .next (s.setResponse (some (encodeResponse s.header))) := by
  change execEncode s = _
  rw [execEncode, encodeResponse]
  rcases encodeHeader s.header with e | b <;> rfl

theorem encodeResponse_of_none (h : Header) (hn : h.opcode = none) : encodeResponse h = .err .opcodeUnset := by
  rw [encodeResponse, (encodeHeader_eq_error h _).mpr ⟨hn, rfl⟩]

/-- With the opcode set the answer is the layout of the id, the table's flag word and the counts (R140, R144). -/
theorem encodeResponse_of_some (h : Header) (m : Opcode) (hm : h.opcode = some m) :
    encodeResponse h = .okBytes (layout h.id (flagTable h.request m h.recursionDesired) h.questionEntries h.answerEntries
      h.authorityRecords h.additionalRecords) := by
  rw [encodeResponse, (encodeHeader_eq_ok h _).mpr ⟨m, hm, rfl⟩, packFlags_opcodeCode]

/-- Whatever the Header, the bits of AA, TC, RA, Z and RCODE are 0 in the bytes it encodes to (R142). -/
theorem encodeHeader_ok_unemitted (h : Header) (b : Bytes12) (hb : encodeHeader h = .ok b) :
    b[2] &&& 0x06 = 0 ∧ b[3] = 0 := by
  obtain ⟨m, -, rfl⟩ := (encodeHeader_eq_ok h b).mp hb
  exact ⟨hi8_packFlags_and_six _ _ _, lo8_packFlags _ _ _⟩

/-! ## The statements about ENCODE -/

/-- Settles O21: ENCODE is read from its word, and its answer is the layout's bytes or `opcodeUnset`. -/
theorem encodeEmitsTwelveBytes : Obligations.EncodeEmitsTwelveBytes := by
  refine ⟨fun w => decode_of_mem_commandTable w (0x01, .encode) (by simp [commandTable]), fun s m hm => ?isSet,
    fun s hn => ?isUnset, fun b => rfl⟩
  case isSet =>
    refine ⟨_, ?_, toList_layout _ _ _ _ _ _⟩
    rw [exec_encode_eq, encodeResponse_of_some s.header m hm]
    rfl
  case isUnset =>
    rw [exec_encode_eq, encodeResponse_of_none s.header hn]
    rfl

/-- Settles O24: the flag word has 0 in the bits of the response fields, and the encoding does not read them. -/
theorem encodeIgnoresResponseFields : Obligations.EncodeIgnoresResponseFields := by
  refine ⟨fun s t b h hr => ?_, fun s aa tc ra rc => exec_encode_of_encodeHeader_eq s _ rfl⟩
  rcases (execEncode_eq_next s t).mp h with ⟨-, rfl⟩ | ⟨b', hb, rfl⟩ <;> cases hr
  exact encodeHeader_ok_unemitted s.header b hb

/-- Settles O26: the response is `encodeResponse` of the Header, which ENCODE leaves as it was. -/
theorem encodeIsAFunctionOfTheHeader : Obligations.EncodeIsAFunctionOfTheHeader := by
  intro s s' hs
  refine ⟨encodeResponse s.header, exec_encode_eq s, ?_, exec_encode_eq _⟩
  rw [hs]
  exact exec_encode_eq s'

/-- Settles O50: the table's flag word for a QUERY request with RD is 0x0100, and the bytes are those of the layout. -/
theorem encodeOfTheSourceExample : Obligations.EncodeOfTheSourceExample := by
  intro s hid hrequest hopcode hrd hqd han hns har
  rw [exec_encode_eq, encodeResponse_of_some s.header .query hopcode, hid, hrequest, hrd, hqd, han, hns, har]
  rfl

end Sys2Proof.Machine
end

section
/-! DECODE reads six words, takes the second of them apart by the field mux-shifter, which has no input for bits 6:4, and loads
`H` whole or not at all (spec/42_decode.md R150 to R159). -/

namespace Sys2Proof.Machine
open Sys2Proof.Machine.Vocabulary

/-! ## The field mux-shifter (R151) -/

/-- A part with mask 1 is its bit, zero extended. -/
theorem flagField_of_mask_one (f : U16) (p : FlagPart) (hp : p.mask = 1) :
    flagField f p = if f.getLsbD p.shift then 1 else 0 := by
  rw [flagField, hp]
  change f >>> p.shift &&& 1#16 = _
  rw [BitVec.and_one_eq_setWidth_ofBool_getLsbD, BitVec.getLsbD_ushiftRight, Nat.add_zero]
  cases f.getLsbD p.shift <;> rfl

/-- A part with a four-bit mask is its enumeration code, zero extended: the mask leaves nothing above the code. -/
theorem setWidth_flagCode (f : U16) (p : FlagPart) (hp : p.mask = 0xF) : (flagCode f p).setWidth 16 = flagField f p := by
  have hle : (flagField f p).toNat ≤ 15 := by
    rw [flagField, hp, BitVec.toNat_and]
    exact Nat.and_le_right
  apply BitVec.eq_of_toNat_eq
  rw [flagCode, BitVec.toNat_setWidth, BitVec.toNat_setWidth]
  omega

/-- Every selected bit lies outside bits 6:4, so clearing these leaves every part as it was (R159). -/
theorem flagField_and_notReserved (f : U16) (p : FlagPart) : flagField (f &&& 0xFF8F) p = flagField f p := by
  have hmask : (0xFF8F : U16) >>> p.shift &&& p.mask = p.mask := by cases p <;> rfl
  rw [flagField, flagField, BitVec.ushiftRight_and_distrib, BitVec.and_assoc, hmask]

theorem flagField_congr {f g : U16} (h : f &&& 0xFF8F = g &&& 0xFF8F) (p : FlagPart) : flagField f p = flagField g p := by
  rw [← flagField_and_notReserved f, h, flagField_and_notReserved]

/-- Settles O27: a one-bit part is its bit, a four-bit part is its code, and no part sees bits 6:4. -/
theorem muxShifterSelectsTheParts : Obligations.MuxShifterSelectsTheParts := by
  intro f
  refine ⟨⟨rfl, flagField_of_mask_one f .qr rfl⟩, ⟨rfl, ?opcode⟩, ⟨rfl, flagField_of_mask_one f .aa rfl⟩,
    ⟨rfl, flagField_of_mask_one f .tc rfl⟩, ⟨rfl, flagField_of_mask_one f .rd rfl⟩, ⟨rfl, flagField_of_mask_one f .ra rfl⟩,
    ⟨rfl, ?rcode⟩, fun v p h => flagField_congr h p⟩
  case opcode => rw [← flagCode_opcode, setWidth_flagCode f .opcode rfl]
  case rcode => rw [← flagCode_rcode, setWidth_flagCode f .rcode rfl]

/-! ## The words of the source (R153) -/

theorem wireWord_memRead (src : Source) (a : Nat) (i : Fin 6) :
    wireWord (src.memRead a 12) i = be16 (src.mem.read (a + 2 * i.val)) (src.mem.read (a + 2 * i.val + 1)) := by
  rw [wireWord, getElem_memRead, getElem_memRead, Nat.add_assoc]

/-- The words DECODE unpacks are the source's words at the position. -/
theorem wireWord_memRead_pos (s : State) (i : Fin 6) : wireWord (s.src.memRead s.src.pos 12) i = sourceWord s i := by
  rw [wireWord_memRead, sourceWord, ← be16_toNat, BitVec.ofNat_toNat, BitVec.setWidth_eq]

/-- The unpacked Header is the one that the source's words spell (R154). -/
theorem unpacked_memRead_pos (s : State) (m : Opcode) (r : ResponseCode) :
    unpacked (s.src.memRead s.src.pos 12) m r = sourceHeader s m r := by
  simp only [unpacked, wireWord_memRead_pos]
  rfl

/-! ## Loading the Header (R154, R156) -/

/-- With 12 bytes remaining and both codes legal, DECODE loads the source's Header and moves the position by 12. -/
theorem execDecode_of_legal (s : State) (m : Opcode) (r : ResponseCode) (hlen : enoughBytes s)
    (hm : sourceOpcode s = opcodeCode m) (hr : sourceRcode s = rcodeCode r) :
    execDecode s = .next (((s.setHeader (sourceHeader s m r)).setSrc (s.src.advance 12)).setResponse (some .ok)) := by
  have hword : wireWord (s.src.memRead s.src.pos 12) 1 = sourceWord s 1 := wireWord_memRead_pos s 1
  refine (execDecode_eq_next s _).mpr (.inr (.inr ⟨hlen, sourceHeader s m r, ?_, rfl⟩))
  rw [← unpacked_memRead_pos]
  apply decodeHeader_ok
  · rw [hword]; exact hm
  · rw [hword]; exact hr

/-- Settles O28: legal codes unpack to the source's Header, and what unpacks has both fields set. -/
theorem decodeLoadsTheHeader : Obligations.DecodeLoadsTheHeader := by
  refine ⟨fun w => (decode_eq_ok_decode _).mpr rfl, execDecode_of_legal, fun s t h hr => ?setBits, port_ok⟩
  obtain ⟨m, r, hm, hc⟩ := execDecode_ok_set s t h hr
  rw [Header.opcodeSet, Header.rcodeSet, hm, hc]
  exact ⟨rfl, rfl⟩

/-! ## The length check (R152, R182) -/

/-- With 12 bytes remaining DECODE is not truncated: the only error of the unpacking is an invalid code. -/
theorem execDecode_not_truncatedInput (s t : State) (hlen : enoughBytes s) (h : execDecode s = .next t) :
    t.response ≠ some (.err .truncatedInput) := by
  rcases (execDecode_eq_next s t).mp h with ⟨hlt, -⟩ | ⟨-, e, he, rfl⟩ | ⟨-, h', -, rfl⟩
  · exact absurd hlen (Nat.not_le.mpr hlt)
  · obtain ⟨which, code, rfl⟩ := decodeHeader_error _ _ he
    nofun
  · nofun

/-- Settles O29: the length check comes before any byte is read, and no later check gives its error. -/
theorem decodeOfAShortSourceChangesNothing : Obligations.DecodeOfAShortSourceChangesNothing :=
  ⟨rfl, fun s hlt => (execDecode_eq_next s _).mpr (.inl ⟨hlt, rfl⟩), execDecode_not_truncatedInput⟩

/-! ## The reserved bits (R159) -/

/-- Unpacking does not see bits 6:4 of the flag word: it reads that word through the mux-shifter alone. -/
theorem decodeHeader_congr (b c : Bytes12) (hflags : wireWord b 1 &&& 0xFF8F = wireWord c 1 &&& 0xFF8F)
    (hwords : ∀ i ≠ 1, wireWord b i = wireWord c i) : decodeHeader b = decodeHeader c := by
  simp only [decodeHeader, flagCode, flagBit, flagField_congr hflags, hwords 0 (by decide), hwords 2 (by decide),
    hwords 3 (by decide), hwords 4 (by decide), hwords 5 (by decide)]

/-- Bits 6:4 of a word are bits 6:4 of its low byte. -/
theorem be16_and_notReserved (a b : Byte) : be16 a b &&& 0xFF8F = be16 a (b &&& 0x8F) := by
  have hhi : hi8 (be16 a b &&& 0xFF8F) = hi8 (be16 a b) &&& 0xFF := BitVec.extractLsb'_and
  have hlo : lo8 (be16 a b &&& 0xFF8F) = lo8 (be16 a b) &&& 0x8F := BitVec.extractLsb'_and
  rw [← be16_hi8_lo8 (be16 a b &&& 0xFF8F), hhi, hlo, hi8_be16, lo8_be16]
  exact congrArg (be16 · _) BitVec.and_allOnes

/-- A byte at offset 3 that differs only in bits 6:4 leaves the unpacking as it was. -/
theorem decodeHeader_memRead_write (src : Source) (v : Byte) (hwf : src.mem.wf)
    (hv : v &&& 0x8F = src.mem.read (src.pos + 3) &&& 0x8F) :
    decodeHeader (Source.memRead { src with mem := src.mem.write (src.pos + 3) v } src.pos 12) =
      decodeHeader (src.memRead src.pos 12) := by
  apply decodeHeader_congr
  case hflags =>
    have hword (mem : Memory) : wireWord (Source.memRead { src with mem := mem } src.pos 12) 1 =
        be16 (mem.read (src.pos + 2)) (mem.read (src.pos + 3)) := wireWord_memRead _ _ 1
    rw [hword, hword src.mem, be16_and_notReserved, be16_and_notReserved, read_write_same _ _ _ hwf, hv,
      read_write_other _ _ _ _ (by omega)]
  case hwords =>
    intro i hi
    have hne : i.val ≠ 1 := fun h => hi (Fin.ext h)
    rw [wireWord_memRead, wireWord_memRead, read_write_other _ _ _ _ (by omega), read_write_other _ _ _ _ (by omega)]

/-- DECODE looks at the memory only through the unpacking: another memory that unpacks alike ends it alike, and stays. -/
theorem execDecode_congr_mem (s t : State) (mem : Memory)
    (hd : decodeHeader (Source.memRead { s.src with mem := mem } s.src.pos 12) =
      decodeHeader (s.src.memRead s.src.pos 12)) (h : execDecode s = .next t) :
    execDecode (s.setSrc { s.src with mem := mem }) = .next (t.setSrc { t.src with mem := mem }) := by
  rw [execDecode_eq_next] at h ⊢
  rcases h with ⟨hlt, rfl⟩ | ⟨hlen, e, he, rfl⟩ | ⟨hlen, h', he, rfl⟩
  · exact .inl ⟨hlt, rfl⟩
  · exact .inr (.inl ⟨hlen, e, hd.trans he, rfl⟩)
  · exact .inr (.inr ⟨hlen, h', hd.trans he, rfl⟩)

/-- Settles O33: the new byte leaves the unpacking as it was, and DECODE sees no more of the memory. -/
theorem reservedBitsDoNotMatter : Obligations.ReservedBitsDoNotMatter := fun s t v hwf hv h =>
  ⟨_, execDecode_congr_mem s t _ (decodeHeader_memRead_write s.src v hwf hv) h, rfl, rfl, rfl, rfl⟩

end Sys2Proof.Machine
end

section
/-! The enum validator: the two lookups and the members' codes are inverse (spec/43_enum_lookup.md R171 to R173), and the two
BYCODE commands are these lookups at the operand's code (R174, R175). -/

namespace Sys2Proof.Machine
open Sys2Proof.Machine.Vocabulary

/-! ## The lookups and the members' codes -/

/-- Looking up a member's code gives the member back (R173). -/
@[simp] theorem opcodeByCode_opcodeCode (m : Opcode) : opcodeByCode (opcodeCode m) = .ok m :=
  (opcodeByCode_eq_ok _ m).mpr rfl

@[simp] theorem rcodeByCode_rcodeCode (m : ResponseCode) : rcodeByCode (rcodeCode m) = .ok m :=
  (rcodeByCode_eq_ok _ m).mpr rfl

/-- A code above 2 has no Opcode member (R171). -/
theorem opcodeByCode_of_two_lt (c : U4) (h : 2 < c.toNat) : opcodeByCode c = .error (.invalidCode .opcode c) :=
  (opcodeByCode_eq_error c _).mpr ⟨h, rfl⟩

/-- A code above 5 has no ResponseCode member (R172). -/
theorem rcodeByCode_of_five_lt (c : U4) (h : 5 < c.toNat) : rcodeByCode c = .error (.invalidCode .responseCode c) :=
  (rcodeByCode_eq_error c _).mpr ⟨h, rfl⟩

/-- No two Opcode members share a code: the lookup is a left inverse. -/
theorem opcodeCode_injective : Function.Injective opcodeCode := by
  intro m m' h
  have hlookup := congrArg opcodeByCode h
  rw [opcodeByCode_opcodeCode, opcodeByCode_opcodeCode] at hlookup
  exact Except.ok.inj hlookup

/-- No two ResponseCode members share a code: the lookup is a left inverse. -/
theorem rcodeCode_injective : Function.Injective rcodeCode := by
  intro m m' h
  have hlookup := congrArg rcodeByCode h
  rw [rcodeByCode_rcodeCode, rcodeByCode_rcodeCode] at hlookup
  exact Except.ok.inj hlookup

/-- Settles O36: each row of the tables is the lookup of its member's code, and a lookup succeeds on members' codes only. -/
theorem byCodeTablesAndInverse : Obligations.ByCodeTablesAndInverse :=
  ⟨⟨opcodeByCode_opcodeCode .query, opcodeByCode_opcodeCode .iquery, opcodeByCode_opcodeCode .status,
      opcodeByCode_of_two_lt⟩,
    ⟨rcodeByCode_rcodeCode .noError, rcodeByCode_rcodeCode .formatError, rcodeByCode_rcodeCode .serverFailure,
      rcodeByCode_rcodeCode .nameError, rcodeByCode_rcodeCode .notImplemented, rcodeByCode_rcodeCode .refused,
      rcodeByCode_of_five_lt⟩,
    ⟨rfl, rfl, rfl⟩, ⟨rfl, rfl, rfl, rfl, rfl, rfl⟩, opcodeByCode_opcodeCode, rcodeByCode_rcodeCode,
    fun c m h => ((opcodeByCode_eq_ok c m).mp h).symm, fun c m h => ((rcodeByCode_eq_ok c m).mp h).symm,
    opcodeCode_injective, rcodeCode_injective⟩

/-! ## The operand of a BYCODE -/

/-- The code taken from an operand is the operand's value, where four bits hold that (R85). -/
theorem toNat_setWidth_four (w : Operand) (h : w.toNat ≤ 15) : (w.setWidth 4).toNat = w.toNat := by
  rw [BitVec.toNat_setWidth]
  exact Nat.mod_eq_of_lt (Nat.lt_succ_of_le h)

/-- An operand with the value of a code stands for that code. -/
theorem setWidth_four_eq_of_toNat_eq (w : Operand) (c : U4) (h : w.toNat = c.toNat) : w.setWidth 4 = c := by
  rw [← BitVec.ofNat_toNat, h, BitVec.ofNat_toNat, BitVec.setWidth_eq]

/-! ## The BYCODE commands -/

/-- A member's code answers the member, and only the response differs after it (R174). -/
theorem exec_bycodeOpcode_of_member (w : Operand) (m : Opcode) (s : State) (h : w.toNat = (opcodeCode m).toNat) :
    exec (.bycodeOpcode w) s = .next (s.setResponse (some (.okOpcode (some m)))) := by
  have hle : w.toNat ≤ 15 := by rw [h]; exact Nat.le_of_lt_succ (opcodeCode m).isLt
  refine (execBycodeOpcode_eq_next w s _).mpr (.inr (.inr ⟨hle, m, ?_, rfl⟩))
  rw [setWidth_four_eq_of_toNat_eq w _ h, opcodeByCode_opcodeCode]

/-- A member's code answers the member, and only the response differs after it (R175). -/
theorem exec_bycodeRcode_of_member (w : Operand) (m : ResponseCode) (s : State) (h : w.toNat = (rcodeCode m).toNat) :
    exec (.bycodeRcode w) s = .next (s.setResponse (some (.okRcode (some m)))) := by
  have hle : w.toNat ≤ 15 := by rw [h]; exact Nat.le_of_lt_succ (rcodeCode m).isLt
  refine (execBycodeRcode_eq_next w s _).mpr (.inr (.inr ⟨hle, m, ?_, rfl⟩))
  rw [setWidth_four_eq_of_toNat_eq w _ h, rcodeByCode_rcodeCode]

/-- A code without a member is recorded in the error, and only the response differs after it (R174). -/
theorem exec_bycodeOpcode_of_no_member (w : Operand) (s : State) (hlt : 2 < w.toNat) (hle : w.toNat ≤ 15) :
    exec (.bycodeOpcode w) s = .next (s.setResponse (some (.err (.invalidCode .opcode (w.setWidth 4))))) := by
  refine (execBycodeOpcode_eq_next w s _).mpr (.inr (.inl ⟨hle, _, opcodeByCode_of_two_lt _ ?_, rfl⟩))
  rwa [toNat_setWidth_four w hle]

/-- A code without a member is recorded in the error, and only the response differs after it (R175). -/
theorem exec_bycodeRcode_of_no_member (w : Operand) (s : State) (hlt : 5 < w.toNat) (hle : w.toNat ≤ 15) :
    exec (.bycodeRcode w) s = .next (s.setResponse (some (.err (.invalidCode .responseCode (w.setWidth 4))))) := by
  refine (execBycodeRcode_eq_next w s _).mpr (.inr (.inl ⟨hle, _, rcodeByCode_of_five_lt _ ?_, rfl⟩))
  rwa [toNat_setWidth_four w hle]

/-- At the ports a member shows as its code, which is the operand it was looked up by (R101). -/
theorem port_okOpcode_some (w : Operand) (m : Opcode) (h : w.toNat = (opcodeCode m).toNat) :
    (Response.okOpcode (some m)).port = portValue (BitVec.ofNat 16 w.toNat) := by
  rw [h, BitVec.ofNat_toNat]
  rfl

theorem port_okRcode_some (w : Operand) (m : ResponseCode) (h : w.toNat = (rcodeCode m).toNat) :
    (Response.okRcode (some m)).port = portValue (BitVec.ofNat 16 w.toNat) := by
  rw [h, BitVec.ofNat_toNat]
  rfl

/-- Settles O35: the lookup of the operand's code decides between member and `invalidCode`, and an operand that is no code is
outside the legality column. -/
theorem bycodeCommands : Obligations.BycodeCommands := by
  refine ⟨fun w => rfl, fun w => rfl, fun w s hw => ?opcodeMember, fun w s hlt hle => ?opcodeInvalid,
    fun w s hw => ?rcodeMember, fun w s hlt hle => ?rcodeInvalid, fun w s hlt => ?illegal⟩
  case opcodeMember =>
    obtain ⟨m, hm⟩ := exists_opcodeOperand w hw
    have hcode := (opcodeOperand_eq_some w m).mp hm
    exact ⟨m, hcode.symm, exec_bycodeOpcode_of_member w m s hcode, port_okOpcode_some w m hcode⟩
  case rcodeMember =>
    obtain ⟨m, hm⟩ := exists_rcodeOperand w hw
    have hcode := (rcodeOperand_eq_some w m).mp hm
    exact ⟨m, hcode.symm, exec_bycodeRcode_of_member w m s hcode, port_okRcode_some w m hcode⟩
  case opcodeInvalid =>
    rw [BitVec.ofNat_toNat]
    exact exec_bycodeOpcode_of_no_member w s hlt hle
  case rcodeInvalid =>
    rw [BitVec.ofNat_toNat]
    exact exec_bycodeRcode_of_no_member w s hlt hle
  case illegal =>
    have hcode : ¬ w.isCode = true := by simpa [Operand.isCode] using hlt
    exact ⟨exec_of_not_wellFormed (.bycodeOpcode w) s hcode, exec_of_not_wellFormed (.bycodeRcode w) s hcode⟩

end Sys2Proof.Machine
end

section
/-! Every command reports the error that the order of priority gives it (spec/60_exceptions.md R187), and a command that ends in
an error has no other effect (R188). -/

namespace Sys2Proof.Machine
open Sys2Proof.Machine.Vocabulary

/-! ## The error of a legal command -/

/-- The outcome is a next state, whose response is exactly the error `err` describes, and no error where it describes none. -/
def EndsInError (o : Host.Outcome State Fault Refusal) (err : Error → Prop) : Prop :=
  ∃ t, o = .next t ∧ ∀ e, t.response = some (.err e) ↔ err e

/-- The order of R187 below the legality check, by instruction: only DECODE, ENCODE and the BYCODE commands have an error left. -/
def legalError (i : Instr) (s : State) (e : Error) : Prop :=
  match i with
  | .decode =>
    (¬ enoughBytes s ∧ e = .truncatedInput) ∨
    (enoughBytes s ∧ 2 < (sourceOpcode s).toNat ∧ e = .invalidCode .opcode (sourceOpcode s)) ∨
    (enoughBytes s ∧ (sourceOpcode s).toNat ≤ 2 ∧ 5 < (sourceRcode s).toNat ∧
      e = .invalidCode .responseCode (sourceRcode s))
  | .encode => s.header.opcode = none ∧ e = .opcodeUnset
  | .bycodeOpcode w => 2 < w.toNat ∧ e = .invalidCode .opcode (BitVec.ofNat 4 w.toNat)
  | .bycodeRcode w => 5 < w.toNat ∧ e = .invalidCode .responseCode (BitVec.ofNat 4 w.toNat)
  | _ => False

theorem endsInError_of_error {o : Host.Outcome State Fault Refusal} {err : Error → Prop} (s : State) (e : Error)
    (ho : o = .next (s.setResponse (some (.err e)))) (herr : ∀ e', err e' ↔ e' = e) : EndsInError o err := by
  refine ⟨_, ho, fun e' => ?_⟩
  rw [herr, setResponse_response, Option.some_inj, Response.err.injEq]
  exact eq_comm

theorem endsInError_of_success {o : Host.Outcome State Fault Refusal} {err : Error → Prop} (s : State) (r : Response)
    (ho : o = .next (s.setResponse (some r))) (hr : ∀ e, r ≠ .err e) (herr : ∀ e, ¬ err e) : EndsInError o err := by
  refine ⟨_, ho, fun e => ?_⟩
  rw [setResponse_response, Option.some_inj]
  exact iff_of_false (hr e) (herr e)

/-- The unpacking of the bytes at the position by the two codes in the source's flag word (R155). -/
theorem decodeHeader_memRead_pos_cases (s : State) :
    ((sourceOpcode s).toNat ≤ 2 ∧ (sourceRcode s).toNat ≤ 5 ∧ ∃ h, decodeHeader (s.src.memRead s.src.pos 12) = .ok h) ∨
    (2 < (sourceOpcode s).toNat ∧
      decodeHeader (s.src.memRead s.src.pos 12) = .error (.invalidCode .opcode (sourceOpcode s))) ∨
    ((sourceOpcode s).toNat ≤ 2 ∧ 5 < (sourceRcode s).toNat ∧
      decodeHeader (s.src.memRead s.src.pos 12) = .error (.invalidCode .responseCode (sourceRcode s))) := by
  have hcases := decodeHeader_cases (s.src.memRead s.src.pos 12)
  rw [wireWord_memRead_pos s 1] at hcases
  rcases hcases with ⟨m, r, hm, hr, hd⟩ | hopcode | hrcode
  · refine .inl ⟨?_, ?_, _, hd⟩
    · rw [show sourceOpcode s = opcodeCode m from hm]; cases m <;> decide
    · rw [show sourceRcode s = rcodeCode r from hr]; cases r <;> decide
  · exact .inr (.inl hopcode)
  · exact .inr (.inr hrcode)

/-- DECODE checks the length, then the opcode, then the response code (R152, R155). -/
theorem exec_decode_endsInError (s : State) : EndsInError (exec .decode s) (legalError .decode s) := by
  by_cases hlen : enoughBytes s
  case neg =>
    exact endsInError_of_error s .truncatedInput ((execDecode_eq_next s _).mpr (.inl ⟨Nat.lt_of_not_le hlen, rfl⟩))
      (by simp [legalError, hlen])
  rcases decodeHeader_memRead_pos_cases s with ⟨hop, hrc, h, hd⟩ | ⟨hop, hd⟩ | ⟨hop, hrc, hd⟩
  · exact endsInError_of_success _ .ok ((execDecode_eq_next s _).mpr (.inr (.inr ⟨hlen, h, hd, rfl⟩))) nofun
      (by simp [legalError, hlen, hop.not_gt, hrc.not_gt])
  · exact endsInError_of_error _ _ ((execDecode_eq_next s _).mpr (.inr (.inl ⟨hlen, _, hd, rfl⟩)))
      (by simp [legalError, hlen, hop, hop.not_ge])
  · exact endsInError_of_error _ _ ((execDecode_eq_next s _).mpr (.inr (.inl ⟨hlen, _, hd, rfl⟩)))
      (by simp [legalError, hlen, hop, hop.not_gt, hrc])

/-- ENCODE fails only for want of an opcode (R145). -/
theorem exec_encode_endsInError (s : State) : EndsInError (exec .encode s) (legalError .encode s) := by
  rcases hop : s.header.opcode with _ | m
  · have hr := encodeResponse_of_none s.header hop
    exact endsInError_of_error s .opcodeUnset (hr ▸ exec_encode_eq s) (by simp [legalError, hop])
  · obtain ⟨b, hb⟩ := exec_encode_of_opcode s m hop
    exact endsInError_of_success s _ hb nofun (by simp [legalError, hop])

/-- BYCODE_OPCODE fails, at a legal operand, only where no member has the code (R174). -/
theorem exec_bycodeOpcode_endsInError (w : Operand) (s : State) (hw : w.toNat ≤ 15) :
    EndsInError (exec (.bycodeOpcode w) s) (legalError (.bycodeOpcode w) s) := by
  rcases Nat.lt_or_ge 2 w.toNat with hlt | hle
  · exact endsInError_of_error s _ (exec_bycodeOpcode_of_no_member w s hlt hw) (by simp [legalError, hlt])
  · obtain ⟨m, hm⟩ := exists_opcodeOperand w hle
    exact endsInError_of_success s _ (exec_bycodeOpcode_of_member w m s ((opcodeOperand_eq_some w m).mp hm)) nofun
      (by simp [legalError, hle.not_gt])

/-- BYCODE_RCODE fails, at a legal operand, only where no member has the code (R175). -/
theorem exec_bycodeRcode_endsInError (w : Operand) (s : State) (hw : w.toNat ≤ 15) :
    EndsInError (exec (.bycodeRcode w) s) (legalError (.bycodeRcode w) s) := by
  rcases Nat.lt_or_ge 5 w.toNat with hlt | hle
  · exact endsInError_of_error s _ (exec_bycodeRcode_of_no_member w s hlt hw) (by simp [legalError, hlt])
  · obtain ⟨m, hm⟩ := exists_rcodeOperand w hle
    exact endsInError_of_success s _ (exec_bycodeRcode_of_member w m s ((rcodeOperand_eq_some w m).mp hm)) nofun
      (by simp [legalError, hle.not_gt])

theorem not_legalError_getCmd (f : HeaderField) (s : State) (e : Error) : ¬ legalError f.getCmd s e := by
  cases f <;> exact id

theorem not_legalError_setCmd (f : HeaderField) (w : Operand) (s : State) (e : Error) : ¬ legalError (f.setCmd w) s e := by
  cases f <;> exact id

/-- A command with a legal operand ends in the error that the order leaves it. -/
theorem exec_endsInError (i : Instr) (s : State) (hi : i.wellFormed = true) : EndsInError (exec i s) (legalError i s) := by
  rcases instr_cases i with rfl | rfl | rfl | ⟨w, rfl⟩ | ⟨w, rfl⟩ | ⟨f, rfl⟩ | ⟨f, w, rfl⟩
  · exact endsInError_of_success _ .ok rfl nofun fun _ => id
  · exact exec_encode_endsInError s
  · exact exec_decode_endsInError s
  · exact exec_bycodeOpcode_endsInError w s (of_decide_eq_true hi)
  · exact exec_bycodeRcode_endsInError w s (of_decide_eq_true hi)
  · obtain ⟨r, he, hr⟩ := exec_getCmd f s
    exact endsInError_of_success s r he hr (not_legalError_getCmd f s)
  · rcases exec_setCmd f w s with ⟨-, h, he⟩ | ⟨hw, -⟩
    · exact endsInError_of_success _ .ok he nofun (not_legalError_setCmd f w s)
    · exact absurd hi (by simp [hw])

/-! ## The order of priority (R187) -/

/-- For a legal command the order by command word is the order by the instruction of the word's row. -/
theorem expectedError_iff_legalError (w : Operand) (s : State) (e : Error) : ∀ row ∈ commandTable w,
    legalCommand ⟨row.1, w⟩ → (expectedError ⟨row.1, w⟩ s e ↔ legalError row.2 s e) := by
  intro row hrow hlegal
  simp only [expectedError, hlegal, not_true, false_and, true_and, false_or]
  fin_cases hrow <;> simp [legalError]

/-- An illegal command must report `illegalCommand`, before anything else is looked at (R187 (1)). -/
theorem expectedError_of_not_legalCommand (c : Command) (s : State) (e : Error) (h : ¬ legalCommand c) :
    expectedError c s e ↔ e = .illegalCommand := by
  simp [expectedError, h]

/-- A command, legal or not, ends in the error that the order gives. -/
theorem runCommand_endsInError (c : Command) (s : State) : EndsInError (runCommand c s) (expectedError c s) := by
  by_cases hlegal : legalCommand c
  case neg =>
    exact endsInError_of_error s _ (runCommand_of_not_legalCommand c s hlegal) fun e =>
      expectedError_of_not_legalCommand c s e hlegal
  obtain ⟨cw, w⟩ := c
  have hlisted := hlegal.left
  rw [← map_fst_commandTable w] at hlisted
  obtain ⟨⟨_, i⟩, hrow, rfl⟩ := List.mem_map.mp hlisted
  have hd : decode ⟨_, w⟩ = .ok i := decode_of_mem_commandTable w _ hrow
  obtain ⟨t, ht, herr⟩ := exec_endsInError i s ((legalCommand_iff_wellFormed _ i hd).mp hlegal)
  refine ⟨t, ?_, fun e => (herr e).trans (expectedError_iff_legalError w s e _ hrow hlegal).symm⟩
  rw [runCommand, hd]
  exact ht

/-- Settles O37: the order reads the state's Header and byte source, which taking the command off the schedule leaves. -/
theorem errorsFollowThePriorityOrder : Obligations.ErrorsFollowThePriorityOrder := by
  intro s c rest hs
  rw [step_event s _ rest hs]
  exact runCommand_endsInError c (s.setHost rest)

/-! ## What an error leaves unchanged (R188) -/

/-- An instruction that ends in an error changes at most the byte source and the response. -/
theorem exec_error_frame (i : Instr) (s t : State) (e : Error) (h : exec i s = .next t) (hr : t.response = some (.err e)) :
    t = (s.setSrc t.src).setResponse (some (.err e)) := by
  rcases exec_inversion i s t h with ⟨-, rfl⟩ | ⟨-, r, rfl⟩ | ⟨-, ⟨e', rfl⟩ | ⟨e', rfl⟩ | ⟨h', rfl⟩⟩ | ⟨-, r, rfl⟩ |
    ⟨-, r, rfl, -⟩ | ⟨f, w, -, ⟨-, h', rfl⟩ | ⟨-, rfl⟩⟩ <;> cases hr <;> rfl

/-- A command that ends in an error changes at most the byte source and the response: a reserved word changes the response alone. -/
theorem runCommand_error_frame (c : Command) (s t : State) (e : Error) (h : runCommand c s = .next t)
    (hr : t.response = some (.err e)) : t = (s.setSrc t.src).setResponse (some (.err e)) := by
  rw [runCommand] at h
  split at h
  next i _ => exact exec_error_frame i s t e h hr
  next =>
    cases (raise_eq_next _ _ _).mp h
    cases hr
    rfl

/-- Settles O38: Header and schedule are kept, the byte source moves by `positionAfter` (R31), and the record is the error's. -/
theorem errorsHaveNoOtherEffect : Obligations.ErrorsHaveNoOtherEffect := by
  refine ⟨fun s t c rest e hs h hr => ?effect, fun e => ?record⟩
  case effect =>
    rw [step_event s _ rest hs] at h
    rw [runCommand_error_frame c (s.setHost rest) t e h hr, runCommand_src c (.err e) (s.setHost rest) t h hr]
    rfl
  case record =>
    cases e with
    | invalidCode which code => cases which <;> rfl
    | truncatedInput => rfl
    | opcodeUnset => rfl
    | illegalCommand => rfl

end Sys2Proof.Machine
end

section
/-! The reset input empties the Header, leaves no response to read and touches nothing else (spec/70_reset_and_hazards.md R200,
R202). -/

namespace Sys2Proof.Machine

@[simp] theorem resetBlock_header (s : State) : (resetBlock s).header = Header.empty := rfl
@[simp] theorem resetBlock_src (s : State) : (resetBlock s).src = s.src := rfl
@[simp] theorem resetBlock_host (s : State) : (resetBlock s).host = s.host := rfl
@[simp] theorem resetBlock_response (s : State) : (resetBlock s).response = none := rfl

/-- A step on the reset input resets the block, at the state in which the input is no longer to come (R202). -/
theorem step_reset (s : State) (rest : List HostEvent) (h : s.host = .reset :: rest) :
    step s = .next (resetBlock (s.setHost rest)) :=
  step_event s .reset rest h

/-- Before the first command and after the reset input, the Header is empty and there is no response (R200). -/
theorem header_and_response_of_reset (t : State)
    (ht : t = State.reset ∨ ∃ s rest, s.host = .reset :: rest ∧ step s = .next t) :
    t.header = Header.empty ∧ t.response = none := by
  rcases ht with rfl | ⟨s, rest, hs, ht⟩
  · exact ⟨reset_header, reset_response⟩
  · rw [step_reset s rest hs] at ht
    cases ht
    exact ⟨resetBlock_header _, resetBlock_response _⟩

/-- Settles O10: the reset table is read off the empty Header. -/
theorem resetEmptiesTheHeader : Obligations.ResetEmptiesTheHeader := by
  refine ⟨fun s t rest hs ht => ?source, fun t ht => ?table⟩
  case source =>
    rw [step_reset s rest hs] at ht
    cases ht
    rw [resetBlock_src, setHost_src]
  case table =>
    obtain ⟨hheader, hresponse⟩ := header_and_response_of_reset t ht
    rw [State.responsePort, hheader, hresponse]
    decide

/-- Settles O11: the reset of the block, with every field of the state after it written out. -/
theorem resetInputLeavesTheSource : Obligations.ResetInputLeavesTheSource :=
  step_reset

end Sys2Proof.Machine
end

section
/-! The encoder and the decoder are inverse to each other, up to the operand that a command ignores (spec/30_encoding.md R84 to
R87). -/

namespace Sys2Proof.Machine

/-- A word laid out in class 0 is taken apart into the class, the zero bits and the function number (R84). -/
theorem cw_parts_layCw_zero : ∀ fn : U4,
    cwZero (layCw 0 fn) = 0 ∧ cwClass (layCw 0 fn) = 0 ∧ cwSel (layCw 0 fn) = fn := by
  decide

/-- A control command is read from its function number with its operand (R84). -/
theorem decode_layCw_zero (fn : U4) (w : Operand) (i : Instr) (h : controlCmd fn w = some i) :
    decode ⟨layCw 0 fn, w⟩ = .ok i := by
  obtain ⟨hzero, hclass, hsel⟩ := cw_parts_layCw_zero fn
  rw [decode, if_pos hzero, hclass, hsel, h]
  rfl

/-- The decoder gives back every instruction that the encoder wrote. -/
theorem decode_encode (i : Instr) : decode (encode i) = .ok i := by
  rcases instr_cases i with rfl | rfl | rfl | ⟨w, rfl⟩ | ⟨w, rfl⟩ | ⟨f, rfl⟩ | ⟨f, w, rfl⟩
  · exact decode_layCw_zero 0 0 _ rfl
  · exact decode_layCw_zero 1 0 _ rfl
  · exact decode_layCw_zero 2 0 _ rfl
  · exact decode_layCw_zero 3 w _ rfl
  · exact decode_layCw_zero 4 w _ rfl
  · rw [encode_getCmd]
    exact decode_layCw_one f 0
  · rw [encode_setCmd]
    exact decode_layCw_two f w

/-- The SET of a field keeps its operand whole. -/
theorem setCmd_injective (f : HeaderField) : Function.Injective f.setCmd := by
  intro w w' h
  have hwdata := congrArg (fun i => (encode i).wdata) h
  rwa [encode_setCmd, encode_setCmd] at hwdata

/-- The encoder gives back the operand that the decoder read, unless the command word decodes alike at every operand (R85). -/
theorem encode_wdata_of_decode (c : Command) (i : Instr) (h : decode c = .ok i) :
    (encode i).wdata = c.wdata ∨ ((encode i).wdata = 0 ∧ ∀ w, decode ⟨c.cw, w⟩ = .ok i) := by
  obtain ⟨cw, wdata⟩ := c
  obtain rfl : (encode i).cw = cw := encode_cw_of_decode _ i h
  rcases instr_cases i with rfl | rfl | rfl | ⟨w, rfl⟩ | ⟨w, rfl⟩ | ⟨f, rfl⟩ | ⟨f, w, rfl⟩
  · exact .inr ⟨rfl, fun w => decode_layCw_zero 0 w _ rfl⟩
  · exact .inr ⟨rfl, fun w => decode_layCw_zero 1 w _ rfl⟩
  · exact .inr ⟨rfl, fun w => decode_layCw_zero 2 w _ rfl⟩
  · exact .inl (Instr.bycodeOpcode.inj (Except.ok.inj ((decode_layCw_zero 3 wdata _ rfl).symm.trans h))).symm
  · exact .inl (Instr.bycodeRcode.inj (Except.ok.inj ((decode_layCw_zero 4 wdata _ rfl).symm.trans h))).symm
  · rw [encode_getCmd]
    exact .inr ⟨rfl, decode_layCw_one f⟩
  · rw [encode_setCmd] at h ⊢
    exact .inl (setCmd_injective f (Except.ok.inj ((decode_layCw_two f wdata).symm.trans h))).symm

/-- Settles O2: reading back is by the command's kind, and the word and the operand of a command that decodes are given back. -/
theorem decodeAndEncodeAgree : Obligations.DecodeAndEncodeAgree :=
  ⟨decode_encode, fun c i h => ⟨encode_cw_of_decode c i h, encode_wdata_of_decode c i h⟩⟩

end Sys2Proof.Machine
end

section
/-! What one step can do, event by event, and that a run of steps never stops (spec/10_state.md R12, spec/20_memory.md R61,
spec/70_reset_and_hazards.md R214, R215). -/

namespace Sys2Proof.Machine
open Sys2Proof.Machine.Vocabulary

/-! ## The steps -/

/-- A step on a command that decodes runs its instruction. -/
theorem step_of_decode (s : State) (c : Command) (rest : List HostEvent) (i : Instr) (hs : s.host = .command c :: rest)
    (hd : decode c = .ok i) : step s = exec i (s.setHost rest) := by
  rw [step_event s _ rest hs, runEvent, runCommand, hd]

/-- Settles O5: the step runs the event at the head of the schedule, and a command that decodes runs its instruction. -/
theorem stepRunsTheDecodedCommand : Obligations.StepRunsTheDecodedCommand :=
  step_of_decode

/-- Settles O8: each act is the event at the head of the schedule, and writes its own part of `SRC`. -/
theorem hostActsTouchOnlyTheSource : Obligations.HostActsTouchOnlyTheSource :=
  ⟨step_idle, fun s p rest hs => step_event s (.srcPos p) rest hs, fun s l rest hs => step_event s (.srcLim l) rest hs,
    fun s a bs rest hs => ⟨_, step_event s (.srcWrite a bs) rest hs⟩⟩

/-- What an instruction leaves: nothing but the Header, the position and the response can differ (R31, R33). -/
theorem exec_frame (i : Instr) (s t : State) (h : exec i s = .next t) :
    ∃ hd pos r, t = { header := hd, src := { s.src with pos := pos }, host := s.host, response := some r } := by
  rcases exec_inversion i s t h with ⟨-, rfl⟩ | ⟨-, r, rfl⟩ | ⟨-, ⟨e, rfl⟩ | ⟨e, rfl⟩ | ⟨hd, rfl⟩⟩ | ⟨-, r, rfl⟩ |
    ⟨-, r, rfl, -⟩ | ⟨f, w, -, ⟨-, hd, rfl⟩ | ⟨-, rfl⟩⟩ <;> exact ⟨_, _, _, rfl⟩

/-- Every command is complete in one step, whatever it is, and leaves what an instruction leaves. -/
theorem runCommand_eq_next (c : Command) (s : State) :
    ∃ hd pos r, runCommand c s =
      .next { header := hd, src := { s.src with pos := pos }, host := s.host, response := some r } := by
  obtain ⟨t, ht, -⟩ := runCommand_endsInError c s
  rcases hdec : decode c with e | i
  · rw [runCommand, hdec]
    exact ⟨_, _, _, rfl⟩
  · rw [runCommand, hdec] at ht ⊢
    obtain ⟨hd, pos, r, rfl⟩ := exec_frame i s t ht
    exact ⟨hd, pos, r, ht⟩

/-- Settles O6: the step runs the command, which is complete and has a frame. -/
theorem everyCommandGetsOneResponse : Obligations.EveryCommandGetsOneResponse := by
  intro s c rest hs
  rw [step_event s _ rest hs]
  exact runCommand_eq_next c (s.setHost rest)

/-- A legal command is not to be answered with `illegalCommand` (R187). -/
theorem not_expectedError_illegalCommand (c : Command) (s : State) (hc : legalCommand c) :
    ¬ expectedError c s .illegalCommand := by
  simp [expectedError, hc]

/-- Settles O4: the step is complete, and its error is the one that the order of priority gives. -/
theorem legalCommandsAreAccepted : Obligations.LegalCommandsAreAccepted := by
  intro s c rest hs hc
  obtain ⟨hd, pos, r, hstep⟩ := everyCommandGetsOneResponse s c rest hs
  refine ⟨_, r, hstep, rfl, rfl, fun hr => ?_⟩
  obtain ⟨t, ht, herr⟩ := errorsFollowThePriorityOrder s c rest hs
  cases hstep.symm.trans ht
  exact not_expectedError_illegalCommand c s hc ((herr .illegalCommand).mp (congrArg some hr))

/-- A step gives a next state in every state (R214). -/
theorem step_eq_next (s : State) : ∃ t, step s = .next t := by
  rcases hs : s.host with _ | ⟨e, rest⟩
  · exact ⟨s, step_idle s hs⟩
  rw [step_event s e rest hs]
  cases e with
  | command c =>
    obtain ⟨hd, pos, r, h⟩ := runCommand_eq_next c (s.setHost rest)
    exact ⟨_, h⟩
  | reset => exact ⟨_, rfl⟩
  | srcWrite a bs => exact ⟨_, rfl⟩
  | srcPos p => exact ⟨_, rfl⟩
  | srcLim l => exact ⟨_, rfl⟩

/-! ## Runs -/

/-- A run goes on from the state its first step gives. -/
theorem run_succ (k : Nat) (s t : State) (h : step s = .next t) :
    Host.Core.run Sys2Proof.core (k + 1) s = Host.Core.run Sys2Proof.core k t := by
  have hcore : Sys2Proof.core.step s = .next t := h
  simp only [Host.Core.run, hcore]

/-- Settles O7, by induction on the number of steps. -/
theorem noRunEverStops : Obligations.NoRunEverStops := by
  intro s k
  induction k generalizing s with
  | zero => exact ⟨s, rfl⟩
  | succ k ih =>
    obtain ⟨t, ht⟩ := step_eq_next s
    rw [run_succ k s t ht]
    exact ih t

end Sys2Proof.Machine
end

section
/-! The byte source: what the host places is read there, canonical memories are equal data, and every step keeps the canonical form
and `SRC.pos ≤ SRC.lim` (spec/10_state.md R28, spec/20_memory.md R61). -/

namespace Sys2Proof.Machine
open Sys2Proof.Machine.Vocabulary

/-! ## Reading and placing bytes -/

/-- Settles O9: the new memory reads as the run inside it and as the old memory outside. -/
theorem hostBytesLandInTheSource : Obligations.HostBytesLandInTheSource := by
  intro s a bs rest hwf hs
  refine ⟨_, step_event s (.srcWrite a bs) rest hs, fun k hk => ?inside, fun x hx => ?outside⟩
  case inside =>
    change (s.src.mem.writeBytes a bs).read (a + k) = bs[k]
    rw [read_writeBytes _ _ _ _ hwf, if_pos (Nat.le_add_right a k), Nat.add_sub_cancel_left, List.getElem?_eq_getElem hk,
      Option.getD_some]
  case outside =>
    change (s.src.mem.writeBytes a bs).read x = s.src.mem.read x
    rw [read_writeBytes _ _ _ _ hwf]
    rcases hx with hlt | hge
    · rw [if_neg (Nat.not_le.mpr hlt)]
    · rw [List.getElem?_eq_none (by omega), Option.getD_none, ite_self]

/-- A memory reads as its first cell at that cell's address. -/
theorem read_cons_same (c : Host.Cell) (m : Memory) : Memory.read (c :: m) c.1 = c.2 :=
  if_pos rfl

/-- A memory reads as its other cells at every other address. -/
theorem read_cons_other (c : Host.Cell) (m : Memory) (a : Nat) (h : a ≠ c.1) : Memory.read (c :: m) a = m.read a :=
  if_neg h

/-- An address that a canonical memory lists is not below all that another one lists, where both read the same. -/
theorem not_below_of_read_eq (c : Host.Cell) (m m' : Memory) (hc : c.2 ≠ Config.blankByte)
    (h : ∀ a, Memory.read (c :: m) a = m'.read a) : ¬ ∀ d ∈ m', c.1 < d.1 := by
  intro hbelow
  apply hc
  rw [← read_cons_same c m, h, read_below m' c.1 hbelow]

/-- The cells of a canonical memory are all above an address below its first. -/
theorem below_cons (a : Nat) (d : Host.Cell) (m : Memory) (hm : ∀ e ∈ m, d.1 < e.1) (h : a < d.1) :
    ∀ e ∈ d :: m, a < e.1 := by
  intro e he
  rcases List.mem_cons.mp he with rfl | he
  · exact h
  · exact h.trans (hm e he)

/-- Settles O48, by induction on the first memory: neither first address can be the lower one, so both first cells are the same
address with the same byte, and the tails read alike because neither lists that address. -/
theorem canonicalMemoriesAreEqualData : Obligations.CanonicalMemoriesAreEqualData := by
  intro m
  induction m with
  | nil =>
    intro m' _ hwf' h
    cases m' with
    | nil => rfl
    | cons d m' =>
      obtain ⟨-, hd, -⟩ := (wf_cons d m').mp hwf'
      exact absurd (by simp) (not_below_of_read_eq d m' [] hd fun a => (h a).symm)
  | cons c m ih =>
    intro m' hwf hwf' h
    obtain ⟨hm, hc, hwfm⟩ := (wf_cons c m).mp hwf
    cases m' with
    | nil => exact absurd (by simp) (not_below_of_read_eq c m [] hc h)
    | cons d m' =>
      obtain ⟨hm', hd, hwfm'⟩ := (wf_cons d m').mp hwf'
      have haddr : c.1 = d.1 := by
        rcases lt_trichotomy c.1 d.1 with hlt | heq | hgt
        · exact absurd (below_cons c.1 d m' hm' hlt) (not_below_of_read_eq c m _ hc h)
        · exact heq
        · exact absurd (below_cons d.1 c m hm hgt) (not_below_of_read_eq d m' _ hd fun a => (h a).symm)
      have hbyte : c.2 = d.2 := by
        rw [← read_cons_same c m, h, haddr, read_cons_same]
      have htail : ∀ a, Memory.read m a = Memory.read m' a := by
        intro a
        by_cases ha : a = c.1
        · rw [ha, read_below m c.1 hm, read_below m' c.1 (haddr ▸ hm')]
        · rw [← read_cons_other c m a ha, h, read_cons_other d m' a (haddr ▸ ha)]
      rw [Prod.ext haddr hbyte, ih m' hwfm hwfm' htail]

/-! ## The invariant of the source -/

/-- `INVALID_ADVANCE` is twice a number up to 6 (R6). -/
theorem invalidAdvance_eq : ∃ k ≤ 6, Config.invalidAdvance = 2 * k :=
  ⟨_, Nat.le_of_lt_succ Config.invalidAdvanceHalf.isLt, rfl⟩

/-- No DECODE moves the position by more than the twelve bytes it has found there. -/
theorem invalidAdvance_le : Config.invalidAdvance ≤ 12 := by
  obtain ⟨k, hk, he⟩ := invalidAdvance_eq
  omega

/-- DECODE keeps the position within the limit: where it moves, 12 bytes remained (R152, R158). -/
theorem execDecode_pos_le_lim (s t : State) (h : execDecode s = .next t) (hpos : s.src.pos ≤ s.src.lim) :
    t.src.pos ≤ t.src.lim := by
  rcases (execDecode_eq_next s t).mp h with ⟨-, rfl⟩ | ⟨hlen, e, -, rfl⟩ | ⟨hlen, h', -, rfl⟩
  · exact hpos
  · exact (Nat.add_le_add_left invalidAdvance_le _).trans hlen
  · exact hlen

/-- Every instruction keeps the position within the limit. -/
theorem exec_pos_le_lim (i : Instr) (s t : State) (h : exec i s = .next t) (hpos : s.src.pos ≤ s.src.lim) :
    t.src.pos ≤ t.src.lim := by
  by_cases hi : i = .decode
  · subst hi
    exact execDecode_pos_le_lim s t h hpos
  · rwa [exec_src_of_ne_decode i s t hi h]

/-- Every command keeps the memory, and the position within the limit. -/
theorem runCommand_keeps_source (c : Command) (s t : State) (h : runCommand c s = .next t) :
    t.src.mem = s.src.mem ∧ (s.src.pos ≤ s.src.lim → t.src.pos ≤ t.src.lim) := by
  obtain ⟨hd, pos, r, hnext⟩ := runCommand_eq_next c s
  cases hnext.symm.trans h
  refine ⟨rfl, ?_⟩
  rw [runCommand] at h
  split at h
  next i _ => exact exec_pos_le_lim i s _ h
  next =>
    rw [(raise_eq_next _ _ _).mp h]
    exact id

/-- Settles O46: by the event at the head of the schedule. -/
theorem stepKeepsTheSourceInvariant : Obligations.StepKeepsTheSourceInvariant := by
  intro s t hwf h
  rcases hs : s.host with _ | ⟨e, rest⟩
  · cases (step_idle s hs).symm.trans h
    exact ⟨hwf, fun hpos _ => hpos⟩
  have host (hkeeps : s.hostKeepsLimit) : e.keepsLimit s.src := hkeeps e (by simp [hs])
  rw [step_event s e rest hs] at h
  cases e with
  | command c =>
    obtain ⟨hmem, hpos⟩ := runCommand_keeps_source c (s.setHost rest) t h
    exact ⟨hmem ▸ hwf, fun hle _ => hpos hle⟩
  | reset =>
    cases h
    exact ⟨hwf, fun hpos _ => hpos⟩
  | srcWrite a bs =>
    cases h
    exact ⟨wf_writeBytes bs _ a hwf, fun hpos _ => hpos⟩
  | srcPos p =>
    cases h
    exact ⟨hwf, fun _ hkeeps => host hkeeps⟩
  | srcLim l =>
    cases h
    exact ⟨hwf, fun _ hkeeps => host hkeeps⟩

/-- Settles O47: the empty memory is canonical, and position and limit are both 0. -/
theorem resetMeetsTheSourceInvariant : Obligations.ResetMeetsTheSourceInvariant :=
  fun _ => ⟨⟨List.Pairwise.nil, nofun⟩, le_rfl⟩

end Sys2Proof.Machine
end

section
/-! DECODE by what the twelve bytes at the position spell: which words it accepts, what it leaves of each, and that it sees nothing
else (spec/30_encoding.md R82, spec/42_decode.md R153 to R160). -/

namespace Sys2Proof.Machine
open Sys2Proof.Machine.Vocabulary

/-! ## DECODE from the outcome of the unpacking -/

/-- With 12 bytes remaining an error of the unpacking is DECODE's, and the position moves by the OPEN amount (R157, R158). -/
theorem execDecode_of_error (s : State) (e : Error) (hlen : enoughBytes s)
    (hd : decodeHeader (s.src.memRead s.src.pos 12) = .error e) :
    execDecode s = .next ((s.setSrc (s.src.advance Config.invalidAdvance)).setResponse (some (.err e))) :=
  (execDecode_eq_next s _).mpr (.inr (.inl ⟨hlen, e, hd, rfl⟩))

/-- With 12 bytes remaining a Header that unpacks is loaded, and the position moves by 12 (R154, R156). -/
theorem execDecode_of_ok (s : State) (h : Header) (hlen : enoughBytes s)
    (hd : decodeHeader (s.src.memRead s.src.pos 12) = .ok h) :
    execDecode s = .next (((s.setHeader h).setSrc (s.src.advance 12)).setResponse (some .ok)) :=
  (execDecode_eq_next s _).mpr (.inr (.inr ⟨hlen, h, hd, rfl⟩))

/-- With fewer than 12 bytes remaining DECODE has no effect (R152). -/
theorem execDecode_of_short (s : State) (hlen : ¬ enoughBytes s) :
    execDecode s = .next (s.setResponse (some (.err .truncatedInput))) :=
  (execDecode_eq_next s _).mpr (.inl ⟨Nat.lt_of_not_le hlen, rfl⟩)

/-- The Header that a DECODE with answer `ok` loads is the one that the bytes at the position unpack to (R154). -/
theorem decodeHeader_of_execDecode_ok (s t : State) (h : execDecode s = .next t) (hr : t.response = some .ok) :
    decodeHeader (s.src.memRead s.src.pos 12) = .ok t.header := by
  rcases (execDecode_eq_next s t).mp h with ⟨-, rfl⟩ | ⟨-, e, -, rfl⟩ | ⟨-, hd, hdec, rfl⟩ <;> cases hr
  exact hdec

/-! ## Which words it accepts -/

/-- Settles O30: the order of the two checks is that of the unpacking. -/
theorem decodeOfAnIllegalCodeLoadsNothing : Obligations.DecodeOfAnIllegalCodeLoadsNothing := by
  refine ⟨invalidAdvance_eq, fun c => rfl, fun c => rfl, fun s hlen hop => ?opcode, fun s hlen hop hrc => ?rcode⟩
  case opcode =>
    rcases decodeHeader_memRead_pos_cases s with ⟨hle, -⟩ | ⟨-, hd⟩ | ⟨hle, -⟩
    · exact absurd hle hop.not_ge
    · exact execDecode_of_error s _ hlen hd
    · exact absurd hle hop.not_ge
  case rcode =>
    rcases decodeHeader_memRead_pos_cases s with ⟨-, hle, -⟩ | ⟨hlt, -⟩ | ⟨-, -, hd⟩
    · exact absurd hle hrc.not_ge
    · exact absurd hop hlt.not_ge
    · exact execDecode_of_error s _ hlen hd

/-- Settles O31: the unpacking succeeds where both codes are legal, and each of its two errors is an illegal code. -/
theorem decodeAcceptsExactlyTheLegalWords : Obligations.DecodeAcceptsExactlyTheLegalWords := by
  intro s hlen
  rcases decodeHeader_memRead_pos_cases s with ⟨hop, hrc, h, hd⟩ | ⟨hop, hd⟩ | ⟨-, hrc, hd⟩
  · exact ⟨_, execDecode_of_ok s h hlen hd, iff_of_true rfl ⟨hop, hrc⟩⟩
  · exact ⟨_, execDecode_of_error s _ hlen hd, iff_of_false nofun fun hle => hop.not_ge hle.1⟩
  · exact ⟨_, execDecode_of_error s _ hlen hd, iff_of_false nofun fun hle => hrc.not_ge hle.2⟩

/-! ## What it leaves of a word -/

/-- A word is known outside bits 6:4 from its parts (R71, R73). -/
theorem and_notReserved_eq_of_parts (f g : U16) (hqr : f.getLsbD 15 = g.getLsbD 15)
    (hop : f.extractLsb' 11 4 = g.extractLsb' 11 4) (haa : f.getLsbD 10 = g.getLsbD 10)
    (htc : f.getLsbD 9 = g.getLsbD 9) (hrd : f.getLsbD 8 = g.getLsbD 8) (hra : f.getLsbD 7 = g.getLsbD 7)
    (hrc : f.extractLsb' 0 4 = g.extractLsb' 0 4) : f &&& 0xFF8F = g &&& 0xFF8F := by
  have hopcode (k : Nat) (hk : k < 4) : f.getLsbD (11 + k) = g.getLsbD (11 + k) := by
    simpa [hk] using congrArg (BitVec.getLsbD · k) hop
  have hrcode (k : Nat) (hk : k < 4) : f.getLsbD k = g.getLsbD k := by
    simpa [hk] using congrArg (BitVec.getLsbD · k) hrc
  apply BitVec.eq_of_getLsbD_eq
  intro i hi
  rw [BitVec.getLsbD_and, BitVec.getLsbD_and]
  by_cases hz : 4 ≤ i ∧ i ≤ 6
  · have hmask : (0xFF8F : U16).getLsbD i = false := by
      obtain ⟨h4, h6⟩ := hz
      interval_cases i <;> rfl
    rw [hmask, Bool.and_false, Bool.and_false]
  · congr 1
    rcases (by omega : i < 4 ∨ i = 7 ∨ i = 8 ∨ i = 9 ∨ i = 10 ∨ (11 ≤ i ∧ i - 11 < 4) ∨ i = 15) with
      h | rfl | rfl | rfl | rfl | ⟨hle, hlt⟩ | rfl
    · exact hrcode i h
    · exact hra
    · exact hrd
    · exact htc
    · exact haa
    · rw [← Nat.add_sub_of_le hle]
      exact hopcode _ hlt
    · exact hqr

/-- A Header that unpacks is `unpacked` at the members that the two codes name (R154, R155). -/
theorem eq_unpacked_of_decodeHeader (b : Bytes12) (h : Header) (hd : decodeHeader b = .ok h) :
    ∃ m r, (wireWord b 1).extractLsb' 11 4 = opcodeCode m ∧ (wireWord b 1).extractLsb' 0 4 = rcodeCode r ∧
      h = unpacked b m r := by
  rcases decodeHeader_cases b with ⟨m, r, hm, hr, he⟩ | ⟨-, he⟩ | ⟨-, -, he⟩ <;> cases hd.symm.trans he
  exact ⟨m, r, hm, hr, rfl⟩

/-- Bytes that unpack to one Header have the same words but for bits 6:4 of the flag word: each field gives its word or part back. -/
theorem words_of_decodeHeader_eq (b c : Bytes12) (h : Header) (hb : decodeHeader b = .ok h) (hc : decodeHeader c = .ok h) :
    wireWord b 1 &&& 0xFF8F = wireWord c 1 &&& 0xFF8F ∧ ∀ i ≠ 1, wireWord b i = wireWord c i := by
  obtain ⟨m, r, hm, hr, rfl⟩ := eq_unpacked_of_decodeHeader b h hb
  obtain ⟨m', r', hm', hr', heq⟩ := eq_unpacked_of_decodeHeader c _ hc
  simp only [unpacked, Header.mk.injEq, Option.some_inj, Bool.not_inj_iff] at heq
  obtain ⟨hid, hqr, rfl, haa, htc, hrd, hra, rfl, hqd, han, hns, har⟩ := heq
  refine ⟨and_notReserved_eq_of_parts _ _ hqr (hm.trans hm'.symm) haa htc hrd hra (hr.trans hr'.symm), fun i hi => ?_⟩
  fin_cases i
  · exact hid
  · exact absurd rfl hi
  · exact hqd
  · exact han
  · exact hns
  · exact har

/-- Settles O32: one way each field gives its word or part back, the other way the unpacking does not see bits 6:4. -/
theorem sameHeaderExactlyUpToReservedBits : Obligations.SameHeaderExactlyUpToReservedBits := by
  intro s s' t t' h hr h' hr'
  have hd := decodeHeader_of_execDecode_ok s t h hr
  have hd' := decodeHeader_of_execDecode_ok s' t' h' hr'
  constructor
  · intro heq
    obtain ⟨hflags, hwords⟩ := words_of_decodeHeader_eq _ _ _ hd (heq ▸ hd')
    simp only [wireWord_memRead_pos] at hflags hwords
    exact ⟨hwords 0 (by decide), hflags, hwords 2 (by decide), hwords 3 (by decide), hwords 4 (by decide),
      hwords 5 (by decide)⟩
  · rintro ⟨hid, hflags, hqd, han, hns, har⟩
    refine Except.ok.inj (hd.symm.trans ((decodeHeader_congr _ _ ?_ fun i hi => ?_).trans hd'))
    · rw [wireWord_memRead_pos, wireWord_memRead_pos]
      exact hflags
    · rw [wireWord_memRead_pos, wireWord_memRead_pos]
      fin_cases i
      · exact hid
      · exact absurd rfl hi
      · exact hqd
      · exact han
      · exact hns
      · exact har

/-! ## What it sees -/

/-- Sources that hold the same twelve bytes at their positions read the same there (R153). -/
theorem memRead_pos_eq (s s' : State)
    (h : ∀ k < 12, s.src.mem.read (s.src.pos + k) = s'.src.mem.read (s'.src.pos + k)) :
    s.src.memRead s.src.pos 12 = s'.src.memRead s'.src.pos 12 := by
  ext i hi
  rw [getElem_memRead, getElem_memRead, h i hi]

/-- Settles O34: the same bytes unpack alike, and the outcome of the unpacking fixes the response, the Header loaded and the move. -/
theorem decodeReadsTwelveBytesOnly : Obligations.DecodeReadsTwelveBytesOnly := by
  intro s s' t t' hlen hlen' hbytes h h'
  have hread := memRead_pos_eq s s' hbytes
  rcases hd : decodeHeader (s.src.memRead s.src.pos 12) with e | hdr
  · cases h.symm.trans (execDecode_of_error s e hlen hd)
    cases h'.symm.trans (execDecode_of_error s' e hlen' (hread ▸ hd))
    exact ⟨rfl, nofun, by simp⟩
  · cases h.symm.trans (execDecode_of_ok s hdr hlen hd)
    cases h'.symm.trans (execDecode_of_ok s' hdr hlen' (hread ▸ hd))
    exact ⟨rfl, fun _ => rfl, by simp⟩

/-- A word of the source is 0 where all its bytes are. -/
theorem sourceWord_of_zero (s : State) (h : ∀ k < 12, s.src.mem.read (s.src.pos + k) = 0) (k : Nat) (hk : k < 6) :
    sourceWord s k = 0 := by
  rw [sourceWord, h (2 * k) (by omega), Nat.add_assoc, h (2 * k + 1) (by omega)]
  rfl

/-- Settles O51: the code 0 is QUERY's and NO_ERROR's, and every field of the Header that zero words spell is as stated. -/
theorem decodeOfTwelveZeroBytes : Obligations.DecodeOfTwelveZeroBytes := by
  intro s hlen hzero
  have hword := sourceWord_of_zero s hzero
  have hop : sourceOpcode s = opcodeCode .query := by rw [sourceOpcode, hword 1 (by decide)]; rfl
  have hrc : sourceRcode s = rcodeCode .noError := by rw [sourceRcode, hword 1 (by decide)]; rfl
  change execDecode s = _
  rw [execDecode_of_legal s .query .noError hlen hop hrc, sourceHeader, hword 0 (by decide), hword 1 (by decide),
    hword 2 (by decide), hword 3 (by decide), hword 4 (by decide), hword 5 (by decide)]
  rfl

end Sys2Proof.Machine
end

section
/-! The round trips: what is left of a Header that is encoded and decoded, and of a wire header that is decoded and encoded
(spec/42_decode.md R162); and the encoding of the empty Header (spec/70_reset_and_hazards.md R207). -/

namespace Sys2Proof.Machine
open Sys2Proof.Machine.Vocabulary

/-! ## The codec -/

/-- The Header of which a request header holds all: the response fields as no response has set them (R142, R162). -/
def requestPart (h : Header) : Header :=
  { h with authoritativeAnswer := false, truncated := false, recursionAvailable := false, responseCode := some .noError }

/-- The parts of the packer's word are the fields packed, and 0 where none is (R141, R151). -/
theorem parts_flagTable : ∀ (q : Bool) (m : Opcode) (rd : Bool),
    (flagTable q m rd).extractLsb' 11 4 = opcodeCode m ∧ (flagTable q m rd).extractLsb' 0 4 = rcodeCode .noError ∧
    (!(flagTable q m rd).getLsbD 15) = q ∧ (flagTable q m rd).getLsbD 10 = false ∧
    (flagTable q m rd).getLsbD 9 = false ∧ (flagTable q m rd).getLsbD 8 = rd ∧ (flagTable q m rd).getLsbD 7 = false := by
  intro q m rd
  cases q <;> cases m <;> cases rd <;> decide

/-- Unpacking gives back the fields that were packed (R162). -/
theorem decodeHeader_of_encodeHeader (h : Header) (b : Bytes12) (hb : encodeHeader h = .ok b) :
    decodeHeader b = .ok (requestPart h) := by
  obtain ⟨m, hm, rfl⟩ := (encodeHeader_eq_ok h b).mp hb
  rw [packFlags_opcodeCode]
  obtain ⟨hop, hrc, hqr, haa, htc, hrd, hra⟩ := parts_flagTable h.request m h.recursionDesired
  rw [decodeHeader_ok _ m .noError (by rw [wireWord_layout_1, hop]) (by rw [wireWord_layout_1, hrc])]
  simp only [unpacked, requestPart, wireWord_layout_0, wireWord_layout_1, wireWord_layout_2, wireWord_layout_3,
    wireWord_layout_4, wireWord_layout_5, hqr, haa, htc, hrd, hra, hm]

/-- A word is known from its two bytes (R53). -/
theorem word_ext (v w : U16) (hhi : hi8 v = hi8 w) (hlo : lo8 v = lo8 w) : v = w := by
  rw [← be16_hi8_lo8 v, hhi, hlo, be16_hi8_lo8]

/-- The packer's high byte, from the parts of a high byte: QR, the opcode and RD all lie in it. -/
theorem hi8_packFlags_of_parts : ∀ a : Byte,
    hi8 (packFlags (!a.getLsbD 7) (a.extractLsb' 3 4) (a.getLsbD 0)) = a &&& 0xF9 := by
  decide

/-- The packer puts back QR, the opcode and RD of a word, and nothing else (R142, R162). -/
theorem packFlags_of_parts (f : U16) : packFlags (!f.getLsbD 15) (f.extractLsb' 11 4) (f.getLsbD 8) = f &&& 0xF900 := by
  have hqr : f.getLsbD 15 = (hi8 f).getLsbD 7 := by simp [hi8]
  have hrd : f.getLsbD 8 = (hi8 f).getLsbD 0 := by simp [hi8]
  have hop : f.extractLsb' 11 4 = (hi8 f).extractLsb' 3 4 := by
    ext i hi
    simp [hi8, show 3 + i < 8 by omega, show 8 + (3 + i) = 11 + i by omega]
  have hhi : hi8 (f &&& 0xF900) = hi8 f &&& 0xF9 := BitVec.extractLsb'_and
  have hlo : lo8 (f &&& 0xF900) = lo8 f &&& 0 := BitVec.extractLsb'_and
  apply word_ext
  · rw [hqr, hop, hrd, hi8_packFlags_of_parts, hhi]
  · rw [lo8_packFlags, hlo]
    exact BitVec.and_zero.symm

/-- A word is QR, the opcode and RD alone exactly when its other bits are 0. -/
theorem and_requestMask_eq_self_iff (f : U16) : f &&& 0xF900 = f ↔ f &&& 0x06FF = 0 := by
  constructor
  · intro h
    rw [← h, BitVec.and_assoc]
    exact BitVec.and_zero
  · intro h
    have hsplit : f = (f &&& 0xF900) ||| (f &&& 0x06FF) := by
      rw [← BitVec.and_or_distrib_left]
      exact BitVec.and_allOnes.symm
    rw [h] at hsplit
    exact (hsplit.trans BitVec.or_zero).symm

/-- A code up to 2 is a member's (R76). -/
theorem exists_opcodeCode (c : U4) (h : c.toNat ≤ 2) : ∃ m, c = opcodeCode m := by
  rcases hc : opcodeByCode c with e | m
  · exact absurd ((opcodeByCode_eq_error c e).mp hc).1 h.not_gt
  · exact ⟨m, (opcodeByCode_eq_ok c m).mp hc⟩

/-- A code up to 5 is a member's (R77). -/
theorem exists_rcodeCode (c : U4) (h : c.toNat ≤ 5) : ∃ r, c = rcodeCode r := by
  rcases hc : rcodeByCode c with e | r
  · exact absurd ((rcodeByCode_eq_error c e).mp hc).1 h.not_gt
  · exact ⟨r, (rcodeByCode_eq_ok c r).mp hc⟩

/-- Twelve bytes are the layout of their words. -/
theorem layout_wireWord (b : Bytes12) : layout (wireWord b 0) (wireWord b 1) (wireWord b 2) (wireWord b 3) (wireWord b 4)
    (wireWord b 5) = b := by
  ext i hi
  interval_cases i <;> simp [layout, wireWord]

/-- Two layouts that differ at most in the flag word are equal exactly when the flag words are. -/
theorem layout_flags_inj (w0 f g w2 w3 w4 w5 : U16) : layout w0 f w2 w3 w4 w5 = layout w0 g w2 w3 w4 w5 ↔ f = g := by
  constructor
  · intro h
    simpa using congrArg (wireWord · 1) h
  · rintro rfl
    rfl

/-! ## The source beside the codec -/

/-- Twelve bytes placed at an address are what is read there (R28, R61). -/
theorem memRead_writeBytes (src : Source) (a : Nat) (b : Bytes12) (hwf : src.mem.wf) :
    Source.memRead { src with mem := src.mem.writeBytes a b.toList } a 12 = b := by
  ext i hi
  rw [getElem_memRead, read_writeBytes _ _ _ _ hwf, if_pos (Nat.le_add_right a i), Nat.add_sub_cancel_left,
    List.getElem?_eq_getElem (by simpa using hi), Option.getD_some, Vector.getElem_toList]

/-- The bytes at the position are the layout of the source's words. -/
theorem memRead_pos_eq_layout (s : State) : s.src.memRead s.src.pos 12 =
    layout (sourceWord s 0) (sourceWord s 1) (sourceWord s 2) (sourceWord s 3) (sourceWord s 4) (sourceWord s 5) := by
  conv_lhs => rw [← layout_wireWord (s.src.memRead s.src.pos 12)]
  simp only [wireWord_memRead_pos]
  rfl

/-- The flag word that the Header a source spells is encoded with: that of the source, cut to QR, the opcode and RD. -/
theorem flagTable_sourceHeader (s : State) (m : Opcode) (r : ResponseCode) (hm : sourceOpcode s = opcodeCode m) :
    flagTable (sourceHeader s m r).request m (sourceHeader s m r).recursionDesired = sourceWord s 1 &&& 0xF900 := by
  rw [← packFlags_opcodeCode, ← hm]
  exact packFlags_of_parts (sourceWord s 1)

/-! ## The runs -/

/-- A run of a schedule goes on, after its first event, from what that event left, with the rest of the schedule. -/
theorem run_setHost (k : Nat) (s t : State) (e : HostEvent) (rest : List HostEvent)
    (h : runEvent e (s.setHost rest) = .next (t.setHost rest)) :
    Host.Core.run Sys2Proof.core (k + 1) (s.setHost (e :: rest)) = Host.Core.run Sys2Proof.core k (t.setHost rest) :=
  run_succ k _ _ ((step_event _ e rest rfl).trans h)

/-- ENCODE in a run answers as the Header does (R87, R140). -/
theorem run_presentEncode (k : Nat) (s : State) (rest : List HostEvent) :
    Host.Core.run Sys2Proof.core (k + 1) (s.setHost (presentEncode :: rest)) =
      Host.Core.run Sys2Proof.core k ((s.setResponse (some (encodeResponse s.header))).setHost rest) :=
  run_setHost k s _ _ rest (exec_encode_eq (s.setHost rest))

/-- DECODE in a run loads the Header that the bytes at the position unpack to (R87, R150). -/
theorem run_presentDecode (k : Nat) (s : State) (rest : List HostEvent) (h : Header) (hlen : enoughBytes s)
    (hd : decodeHeader (s.src.memRead s.src.pos 12) = .ok h) :
    Host.Core.run Sys2Proof.core (k + 1) (s.setHost (presentDecode :: rest)) =
      Host.Core.run Sys2Proof.core k ((((s.setHeader h).setSrc (s.src.advance 12)).setResponse (some .ok)).setHost rest) :=
  run_setHost k s _ _ rest (execDecode_of_ok (s.setHost rest) h hlen hd)

/-- Placing bytes in a run changes the memory of the source (R61). -/
theorem run_srcWrite (k : Nat) (s : State) (a : Nat) (bs : List Byte) (rest : List HostEvent) :
    Host.Core.run Sys2Proof.core (k + 1) (s.setHost (.srcWrite a bs :: rest)) =
      Host.Core.run Sys2Proof.core k ((hostWrite a bs s).setHost rest) :=
  run_setHost k s _ _ rest rfl

/-- Settles O44: the bytes placed are read back, and unpacking gives back what was packed. -/
theorem encodeThenDecodeGivesTheHeaderBack : Obligations.EncodeThenDecodeGivesTheHeaderBack := by
  intro s m hwf hlen hm
  obtain ⟨b, hb⟩ : ∃ b, encodeHeader s.header = .ok b := ⟨_, (encodeHeader_eq_ok s.header _).mpr ⟨m, hm, rfl⟩⟩
  let s₁ := s.setResponse (some (encodeResponse s.header))
  let s₂ := hostWrite s.src.pos b.toList s₁
  have hd : decodeHeader (s₂.src.memRead s₂.src.pos 12) = .ok (requestPart s.header) := by
    rw [← decodeHeader_of_encodeHeader s.header b hb]
    exact congrArg decodeHeader (memRead_writeBytes s.src s.src.pos b hwf)
  have hrun := (run_presentEncode 2 s [.srcWrite s.src.pos b.toList, presentDecode]).trans
    ((run_srcWrite 1 s₁ _ _ _).trans (run_presentDecode 0 s₂ [] _ hlen hd))
  exact ⟨b, _, (execEncode_eq_next s _).mpr (.inr ⟨b, hb, rfl⟩), hrun, rfl, rfl, rfl⟩

/-- Settles O45: what DECODE has loaded is encoded with the source's own words, the flag word cut to QR, the opcode and RD. -/
theorem decodeThenEncodeKeepsTheRequestSubset : Obligations.DecodeThenEncodeKeepsTheRequestSubset := by
  intro s hlen hop hrc
  obtain ⟨m, hm⟩ := exists_opcodeCode _ hop
  obtain ⟨r, hr⟩ := exists_rcodeCode _ hrc
  have hd : decodeHeader (s.src.memRead s.src.pos 12) = .ok (sourceHeader s m r) := by
    rw [← unpacked_memRead_pos]
    apply decodeHeader_ok <;> rw [wireWord_memRead_pos s 1]
    · exact hm
    · exact hr
  have hbytes := encodeResponse_of_some (sourceHeader s m r) m rfl
  rw [flagTable_sourceHeader s m r hm] at hbytes
  refine ⟨_, _, (run_presentDecode 1 s _ _ hlen hd).trans (run_presentEncode 0 _ []), congrArg some hbytes,
    toList_layout _ _ _ _ _ _, ?unchanged⟩
  case unchanged =>
    rw [memRead_pos_eq_layout, ← and_requestMask_eq_self_iff]
    exact layout_flags_inj _ _ _ _ _ _ _

/-- The empty Header with the opcode QUERY is a response, and its other words are 0 (R207). -/
theorem encodeResponse_empty_query : encodeResponse (Header.empty.setOpcode (some .query)) =
    .okBytes #v[0, 0, 0x80, 0, 0, 0, 0, 0, 0, 0, 0, 0] := by
  rw [encodeResponse_of_some _ .query rfl]
  rfl

/-- Settles O52: CLEAR and SET_OPCODE leave the empty Header with the opcode QUERY, whatever was there. -/
theorem emptyHeaderEncodesAsAResponse : Obligations.EmptyHeaderEncodesAsAResponse := by
  intro s
  let s₁ := (s.setHeader Header.empty).setResponse (some .ok)
  let s₂ := (s₁.setHeader (Header.empty.setOpcode (some .query))).setResponse (some .ok)
  have hclear := run_setHost 2 s s₁ (.command ⟨0x00, 0⟩) [.command ⟨0x82, 0⟩, presentEncode] rfl
  have hset := run_setHost 1 s₁ s₂ (.command ⟨0x82, 0⟩) [presentEncode] rfl
  exact ⟨_, hclear.trans (hset.trans (run_presentEncode 0 s₂ [])), congrArg some encodeResponse_empty_query⟩

end Sys2Proof.Machine
end

section
/-! What every command may do to `H` and what it may see of it: the SETs write one field each, the set bits are cleared by CLEAR and
reset alone, and only the GETs and ENCODE read `H` (spec/10_state.md R27, spec/40_header_access.md R127,
spec/70_reset_and_hazards.md R215). -/

namespace Sys2Proof.Machine
open Sys2Proof.Machine.Vocabulary

/-! ## Read after write (R127) -/

/-- A SET has a result exactly where its operand is legal (R85, R102). -/
theorem setResult_isSome (f : HeaderField) (w : Operand) (h : Header) :
    (setResult f w h).isSome = (f.setCmd w).wellFormed := by
  cases f
  case request | authoritativeAnswer | truncated | recursionDesired | recursionAvailable =>
    exact Option.isSome_map.trans (boolOperand_isSome w)
  case opcode => exact Option.isSome_map.trans (opcodeOperand_isSome w)
  case responseCode => exact Option.isSome_map.trans (rcodeOperand_isSome w)
  case id | questionEntries | answerEntries | authorityRecords | additionalRecords => rfl

/-- A boolean shows at the ports as the operand it was stored by (R101, R102 (b)). -/
theorem port_okBool_of_boolOperand (w : Operand) (b : Bool) (h : boolOperand w = some b) :
    (Response.okBool b).port = portValue (BitVec.ofNat 16 w.toNat) := by
  rw [port_okBool, (boolOperand_eq_some w b).mp h]
  cases b <;> rfl

/-- A 16-bit field shows at the ports the low 16 bits of the operand it was stored by (R101, R102 (a)). -/
theorem port_okWord_trunc16 (w : Operand) : (Response.okWord (trunc16 w)).port = portValue (BitVec.ofNat 16 w.toNat) := by
  rw [port_okWord, trunc16, BitVec.ofNat_toNat]

/-- After the SET of a field its GET shows the stored image of the operand (R127). -/
theorem port_getResponse_setResult (f : HeaderField) (w : Operand) (h h' : Header) (hres : setResult f w h = some h') :
    (getResponse f h').port = portValue (BitVec.ofNat 16 w.toNat) := by
  cases f
  case request | authoritativeAnswer | truncated | recursionDesired | recursionAvailable =>
    obtain ⟨b, hb, rfl⟩ := Option.map_eq_some_iff.mp hres
    exact port_okBool_of_boolOperand w b hb
  case opcode =>
    obtain ⟨m, hm, rfl⟩ := Option.map_eq_some_iff.mp hres
    exact port_okOpcode_some w m ((opcodeOperand_eq_some w m).mp hm)
  case responseCode =>
    obtain ⟨m, hm, rfl⟩ := Option.map_eq_some_iff.mp hres
    exact port_okRcode_some w m ((rcodeOperand_eq_some w m).mp hm)
  case id | questionEntries | answerEntries | authorityRecords | additionalRecords =>
    cases hres
    exact port_okWord_trunc16 w

/-- The SET of a field leaves what the GET of every other field answers (R127). -/
theorem getResponse_setResult_other (f g : HeaderField) (w : Operand) (h h' : Header) (hg : g ≠ f)
    (hres : setResult f w h = some h') : getResponse g h' = getResponse g h := by
  cases f
  case request | opcode | authoritativeAnswer | truncated | recursionDesired | recursionAvailable | responseCode =>
    obtain ⟨v, -, rfl⟩ := Option.map_eq_some_iff.mp hres
    cases g <;> simp [getResponse] at hg ⊢
  case id | questionEntries | answerEntries | authorityRecords | additionalRecords =>
    cases hres
    cases g <;> simp [getResponse] at hg ⊢

/-- Settles O20: a legal operand has a result, which the GET of the field shows and the other GETs do not see. -/
theorem readAfterWriteOfEveryField : Obligations.ReadAfterWriteOfEveryField := by
  intro f w s hw
  obtain ⟨h, hres⟩ := Option.isSome_iff_exists.mp ((setResult_isSome f w s.header).trans hw)
  refine ⟨_, _, exec_setCmd_of_some f w s h hres, rfl, exec_getCmd_eq f _, port_getResponse_setResult f w _ h hres,
    fun g hg => ⟨_, exec_getCmd_eq g _, ?_⟩⟩
  rw [exec_getCmd_eq, setResponse_header, setHeader_header, getResponse_setResult_other f g w _ h hg hres]
  rfl

/-! ## What a command sees of the state -/

/-- The answer of BYCODE_OPCODE is the same in every state, and only the response differs after it (R174). -/
theorem exec_bycodeOpcode_response (w : Operand) : ∃ r, ∀ s, exec (.bycodeOpcode w) s = .next (s.setResponse (some r)) := by
  rcases hc : codeOperand w with _ | c
  · exact ⟨_, fun s => by simp only [exec, execBycodeOpcode, hc, withOperand]; rfl⟩
  · rcases hm : opcodeByCode c with e | m <;>
      exact ⟨_, fun s => by simp only [exec, execBycodeOpcode, hc, withOperand, hm]; rfl⟩

/-- The answer of BYCODE_RCODE is the same in every state, and only the response differs after it (R175). -/
theorem exec_bycodeRcode_response (w : Operand) : ∃ r, ∀ s, exec (.bycodeRcode w) s = .next (s.setResponse (some r)) := by
  rcases hc : codeOperand w with _ | c
  · exact ⟨_, fun s => by simp only [exec, execBycodeRcode, hc, withOperand]; rfl⟩
  · rcases hm : rcodeByCode c with e | m <;>
      exact ⟨_, fun s => by simp only [exec, execBycodeRcode, hc, withOperand, hm]; rfl⟩

/-- From any state with a given source the instruction answers the same and leaves the same source, whatever `H` holds. -/
def IgnoresHeader (i : Instr) : Prop :=
  ∀ src : Source, ∃ r src', ∀ s : State, s.src = src →
    ∃ h, exec i s = .next (((s.setHeader h).setSrc src').setResponse (some r))

/-- An instruction that answers the same in every state, and changes nothing else, sees nothing of `H`. -/
theorem ignoresHeader_of_response {i : Instr} (h : ∃ r, ∀ s, exec i s = .next (s.setResponse (some r))) :
    IgnoresHeader i := by
  obtain ⟨r, hr⟩ := h
  refine fun src => ⟨r, src, ?_⟩
  rintro s rfl
  exact ⟨s.header, hr s⟩

/-- DECODE looks at the source alone (R153). -/
theorem ignoresHeader_decode : IgnoresHeader .decode := by
  intro src
  by_cases hlen : src.pos + 12 ≤ src.lim
  case neg =>
    refine ⟨.err .truncatedInput, src, ?_⟩
    rintro s rfl
    exact ⟨s.header, execDecode_of_short s hlen⟩
  rcases hd : decodeHeader (src.memRead src.pos 12) with e | h
  · refine ⟨.err e, src.advance Config.invalidAdvance, ?_⟩
    rintro s rfl
    exact ⟨s.header, execDecode_of_error s e hlen hd⟩
  · refine ⟨.ok, src.advance 12, ?_⟩
    rintro s rfl
    exact ⟨h, execDecode_of_ok s h hlen hd⟩

/-- A SET answers by its operand alone (R102). -/
theorem ignoresHeader_setCmd (f : HeaderField) (w : Operand) : IgnoresHeader (f.setCmd w) := by
  intro src
  by_cases hw : (f.setCmd w).wellFormed = true
  · refine ⟨.ok, src, ?_⟩
    rintro s rfl
    rcases exec_setCmd f w s with ⟨-, h, he⟩ | ⟨hfalse, -⟩
    · exact ⟨h, he⟩
    · exact absurd hw (by simp [hfalse])
  · refine ⟨.err .illegalCommand, src, ?_⟩
    rintro s rfl
    exact ⟨s.header, exec_of_not_wellFormed _ s hw⟩

/-- Every command but ENCODE and the GETs ignores `H` (R215). -/
theorem ignoresHeader (i : Instr) (hencode : i ≠ .encode) (hget : ∀ f : HeaderField, i ≠ f.getCmd) : IgnoresHeader i := by
  rcases instr_cases i with rfl | rfl | rfl | ⟨w, rfl⟩ | ⟨w, rfl⟩ | ⟨f, rfl⟩ | ⟨f, w, rfl⟩
  · refine fun src => ⟨.ok, src, ?_⟩
    rintro s rfl
    exact ⟨Header.empty, rfl⟩
  · exact absurd rfl hencode
  · exact ignoresHeader_decode
  · exact ignoresHeader_of_response (exec_bycodeOpcode_response w)
  · exact ignoresHeader_of_response (exec_bycodeRcode_response w)
  · exact absurd rfl (hget f)
  · exact ignoresHeader_setCmd f w

/-- Settles O42: each kind of command answers from the Header, the source and its operand. -/
theorem responsesAreNotSticky : Obligations.ResponsesAreNotSticky := by
  intro i s r
  change exec i (s.setResponse r) = exec i s
  rcases instr_cases i with rfl | rfl | rfl | ⟨w, rfl⟩ | ⟨w, rfl⟩ | ⟨f, rfl⟩ | ⟨f, w, rfl⟩
  · rfl
  · rw [exec_encode_eq, exec_encode_eq]
    rfl
  · rfl
  · obtain ⟨r', hr'⟩ := exec_bycodeOpcode_response w
    rw [hr', hr']
    rfl
  · obtain ⟨r', hr'⟩ := exec_bycodeRcode_response w
    rw [hr', hr']
    rfl
  · rw [exec_getCmd_eq, exec_getCmd_eq]
    rfl
  · rw [exec_setCmd_eq, exec_setCmd_eq]
    rfl

/-! ## What a step does to the Header -/

/-- A step leaves the Header, or runs the reset input, or runs a command that decodes. -/
theorem step_header (s t : State) (h : step s = .next t) :
    t.header = s.header ∨ (∃ rest, s.host = .reset :: rest) ∨
    ∃ c rest i, s.host = .command c :: rest ∧ decode c = .ok i ∧ exec i (s.setHost rest) = .next t := by
  rcases hs : s.host with _ | ⟨e, rest⟩
  · cases (step_idle s hs).symm.trans h
    exact .inl rfl
  rw [step_event s e rest hs] at h
  cases e with
  | command c =>
    rcases hd : decode c with e | i <;> simp only [runEvent, runCommand, hd] at h
    · cases h
      exact .inl rfl
    · exact .inr (.inr ⟨c, rest, i, rfl, hd, h⟩)
  | reset => exact .inr (.inl ⟨rest, rfl⟩)
  | srcWrite a bs => cases h; exact .inl rfl
  | srcPos p => cases h; exact .inl rfl
  | srcLim l => cases h; exact .inl rfl

/-- Only CLEAR, DECODE and the SETs write the Header (R215). -/
theorem writer_of_exec_header_ne (i : Instr) (s t : State) (h : exec i s = .next t) (hne : t.header ≠ s.header) :
    i = .clear ∨ i = .decode ∨ ∃ f w, i = HeaderField.setCmd f w := by
  rcases exec_inversion i s t h with ⟨rfl, -⟩ | ⟨-, r, rfl⟩ | ⟨rfl, -⟩ | ⟨-, r, rfl⟩ | ⟨-, r, rfl, -⟩ | ⟨f, w, rfl, -⟩
  · exact .inl rfl
  · exact absurd rfl hne
  · exact .inr (.inl rfl)
  · exact absurd rfl hne
  · exact absurd rfl hne
  · exact .inr (.inr ⟨f, w, rfl⟩)

/-- Settles O43: a step that changes `H` is reset or a writer's, and a command that ignores `H` ends alike at every `H`. -/
theorem headerIsReachedOnlyThroughItsCommands : Obligations.HeaderIsReachedOnlyThroughItsCommands := by
  refine ⟨fun s t h hne => ?written, fun i s t t' h hencode hget ht ht' => ?read⟩
  case written =>
    rcases step_header s t h with heq | hreset | ⟨c, rest, i, hs, hd, hexec⟩
    · exact absurd heq hne
    · exact .inl hreset
    · exact .inr ⟨c, rest, i, hs, hd, writer_of_exec_header_ne i _ t hexec hne⟩
  case read =>
    obtain ⟨r, src', hall⟩ := ignoresHeader i hencode hget s.src
    obtain ⟨h₁, he⟩ := hall s rfl
    obtain ⟨h₂, he'⟩ := hall (s.setHeader h) rfl
    cases ht.symm.trans he
    cases ht'.symm.trans he'
    exact ⟨rfl, rfl⟩

/-! ## The set bits (R23, R25, R27) -/

/-- The register view of the opcode: a member's code where it is set, 0 where it is not (R23). -/
theorem opcodeReg_legal (h : Header) :
    (h.opcodeSet = true → h.opcodeReg.toNat ≤ 2) ∧ (h.opcodeSet = false → h.opcodeReg = 0) := by
  simp only [Header.opcodeSet, Header.opcodeReg]
  rcases h.opcode with _ | m
  · exact ⟨nofun, fun _ => rfl⟩
  · exact ⟨fun _ => by cases m <;> decide, nofun⟩

/-- The register view of the response code: a member's code where it is set, 0 where it is not (R25). -/
theorem rcodeReg_legal (h : Header) :
    (h.rcodeSet = true → h.rcodeReg.toNat ≤ 5) ∧ (h.rcodeSet = false → h.rcodeReg = 0) := by
  simp only [Header.rcodeSet, Header.rcodeReg]
  rcases h.responseCode with _ | r
  · exact ⟨nofun, fun _ => rfl⟩
  · exact ⟨fun _ => by cases r <;> decide, nofun⟩

/-- Settles O49: each enumeration field has its own register view. -/
theorem registerViewIsLegal : Obligations.RegisterViewIsLegal := by
  intro h
  obtain ⟨hopSet, hopUnset⟩ := opcodeReg_legal h
  obtain ⟨hrcSet, hrcUnset⟩ := rcodeReg_legal h
  exact ⟨hopSet, hrcSet, hopUnset, hrcUnset⟩

/-- The SET of an enumeration field sets its set bit; the other set bits stay as they were. -/
theorem setBits_setResult (f : HeaderField) (w : Operand) (h h' : Header) (hres : setResult f w h = some h') :
    h'.opcodeSet = (h.opcodeSet || decide (f = .opcode)) ∧ h'.rcodeSet = (h.rcodeSet || decide (f = .responseCode)) := by
  cases f
  case request | opcode | authoritativeAnswer | truncated | recursionDesired | recursionAvailable | responseCode =>
    obtain ⟨v, -, rfl⟩ := Option.map_eq_some_iff.mp hres
    simp [Header.opcodeSet, Header.rcodeSet]
  case id | questionEntries | answerEntries | authorityRecords | additionalRecords =>
    cases hres
    simp [Header.opcodeSet, Header.rcodeSet]

/-- A SET sets a set bit where it is that of its own field and the operand is legal. -/
theorem setBits_of_exec_setCmd (f : HeaderField) (w : Operand) (s t : State) (h : exec (f.setCmd w) s = .next t) :
    t.header.opcodeSet = (s.header.opcodeSet || (decide (f = .opcode) && (f.setCmd w).wellFormed)) ∧
    t.header.rcodeSet = (s.header.rcodeSet || (decide (f = .responseCode) && (f.setCmd w).wellFormed)) := by
  rw [← setResult_isSome f w s.header]
  rw [exec_setCmd_eq, withOperand_eq_next] at h
  rcases h with ⟨h', hres, ht⟩ | ⟨hnone, rfl⟩
  · obtain rfl := (respond_eq_next _ _ _).mp ht
    simpa [hres] using setBits_setResult f w s.header h' hres
  · simp [hnone]

/-- DECODE sets both set bits where it answers `ok`, and leaves them otherwise (R27). -/
theorem setBits_of_execDecode (s t : State) (h : execDecode s = .next t) :
    t.header.opcodeSet = (s.header.opcodeSet || decide (t.response = some .ok)) ∧
    t.header.rcodeSet = (s.header.rcodeSet || decide (t.response = some .ok)) := by
  rcases (execDecode_eq_next s t).mp h with ⟨-, rfl⟩ | ⟨-, e, -, rfl⟩ | ⟨-, h', hd, rfl⟩
  · simp
  · simp
  · obtain ⟨m, r, hm, hr⟩ := decodeHeader_ok_set _ _ hd
    simp [Header.opcodeSet, Header.rcodeSet, hm, hr]

/-- A Header that keeps the enumeration fields set has no set bit cleared. -/
theorem KeepsEnumerations.not_cleared {h h' : Header} (hk : KeepsEnumerations h h') :
    ¬ ((h.opcodeSet = true ∧ h'.opcodeSet = false) ∨ (h.rcodeSet = true ∧ h'.rcodeSet = false)) := by
  obtain ⟨hopcode, hrcode⟩ := hk
  simp only [Header.opcodeSet, Header.rcodeSet, Option.isSome_iff_ne_none, Option.isSome_eq_false_iff,
    Option.isNone_iff_eq_none]
  rintro (⟨hset, hnone⟩ | ⟨hset, hnone⟩)
  · exact hopcode hset hnone
  · exact hrcode hset hnone

/-- Settles O41: each kind of command by what it does to the Header, and every step but CLEAR's and reset's keeps the set bits. -/
theorem setBitsAreClearedOnlyByClearAndReset : Obligations.SetBitsAreClearedOnlyByClearAndReset := by
  refine ⟨fun i s t h => ?after, fun s t h hcleared => ?cleared⟩
  case after =>
    rcases instr_cases i with rfl | rfl | rfl | ⟨w, rfl⟩ | ⟨w, rfl⟩ | ⟨f, rfl⟩ | ⟨f, w, rfl⟩
    · cases h
      exact ⟨rfl, rfl⟩
    · cases h.symm.trans (exec_encode_eq s)
      exact ⟨rfl, rfl⟩
    · exact setBits_of_execDecode s t h
    · obtain ⟨r, hr⟩ := exec_bycodeOpcode_response w
      cases h.symm.trans (hr s)
      exact ⟨rfl, rfl⟩
    · obtain ⟨r, hr⟩ := exec_bycodeRcode_response w
      cases h.symm.trans (hr s)
      exact ⟨rfl, rfl⟩
    · cases h.symm.trans (exec_getCmd_eq f s)
      cases f <;> exact ⟨rfl, rfl⟩
    · have hbits := setBits_of_exec_setCmd f w s t h
      cases f <;> simpa [HeaderField.setCmd, Instr.wellFormed, Operand.isOpcode, Operand.isRcode] using hbits
  case cleared =>
    rcases step_header s t h with heq | hreset | ⟨c, rest, i, hs, hd, hexec⟩
    · exact absurd hcleared (KeepsEnumerations.of_eq heq).not_cleared
    · exact .inl hreset
    · by_cases hi : i = .clear
      · subst hi
        obtain ⟨cw, w⟩ := c
        obtain rfl : 0x00 = cw := encode_cw_of_decode _ _ hd
        exact .inr ⟨w, rest, hs⟩
      · exact absurd hcleared (exec_keepsEnumerations i _ t hi hexec).not_cleared

end Sys2Proof.Machine
end

section
/-! The outcomes of a command: the status numbers, and which command can raise which error (spec/41_encode.md R145,
spec/60_exceptions.md R180 to R184). -/

namespace Sys2Proof.Machine
open Sys2Proof.Machine.Vocabulary

/-- Settles O22: ENCODE's answer is that of the Header, and reset and CLEAR leave one without an opcode. -/
theorem encodeNeedsTheOpcode : Obligations.EncodeNeedsTheOpcode := by
  have unset (s : State) (hn : s.header.opcode = none) :
      exec .encode s = .next (s.setResponse (some (.err .opcodeUnset))) := by
    rw [exec_encode_eq, encodeResponse_of_none s.header hn]
  refine ⟨rfl, unset, fun s t e h hr => ?onlyThen, fun t ht => unset t ?emptied⟩
  case onlyThen =>
    rcases (execEncode_eq_next s t).mp h with ⟨hn, rfl⟩ | ⟨b, -, rfl⟩ <;> cases hr
    exact ⟨rfl, hn⟩
  case emptied =>
    rw [header_of_justEmptied t ht]
    rfl

/-- The status of an error is one of the four numbers (R180; decision D5). -/
theorem port_status_of_error (e : Error) : e.port.status.toNat ≤ 4 ∧ e.port.status ≠ 0 := by
  cases e with
  | invalidCode which code => exact (by decide : (1 : BitVec 3).toNat ≤ 4 ∧ (1 : BitVec 3) ≠ 0)
  | truncatedInput => decide
  | opcodeUnset => decide
  | illegalCommand => decide

/-- The status of a success is 0 (R33). -/
theorem port_status_of_success (r : Response) (h : ∀ e, r ≠ .err e) : r.port.status = 0 := by
  cases r with
  | ok => rfl
  | okWord v => rfl
  | okBool b => rfl
  | okOpcode o => cases o <;> rfl
  | okRcode o => cases o <;> rfl
  | okBytes b => rfl
  | err e => exact absurd rfl (h e)

/-- The status of a response is at most 4, and 0 exactly where it is no error (R180). -/
theorem port_status (r : Response) : r.port.status.toNat ≤ 4 ∧ (r.port.status = 0 ↔ ∀ e, r ≠ .err e) := by
  by_cases h : ∀ e, r ≠ .err e
  · rw [port_status_of_success r h]
    exact ⟨by decide, iff_of_true rfl h⟩
  · obtain ⟨e, rfl⟩ : ∃ e, r = .err e := by simpa using h
    obtain ⟨hle, hne⟩ := port_status_of_error e
    exact ⟨hle, iff_of_false hne h⟩

/-- Only the BYCODEs and the SETs have a legality column (R85). -/
theorem checked_of_not_wellFormed (i : Instr) (h : ¬ i.wellFormed = true) :
    (∃ w, i = .bycodeOpcode w) ∨ (∃ w, i = .bycodeRcode w) ∨ ∃ f w, i = HeaderField.setCmd f w := by
  rcases instr_cases i with rfl | rfl | rfl | hopcode | hrcode | ⟨f, rfl⟩ | hset
  · exact absurd rfl h
  · exact absurd rfl h
  · exact absurd rfl h
  · exact .inl hopcode
  · exact .inr (.inl hrcode)
  · exact absurd (by cases f <;> rfl) h
  · exact .inr (.inr hset)

/-- An instruction's error is `illegalCommand` at an illegal operand, and otherwise the one the order of R187 leaves it. -/
theorem error_cases (i : Instr) (s t : State) (e : Error) (h : exec i s = .next t) (hr : t.response = some (.err e)) :
    (¬ i.wellFormed = true ∧ e = .illegalCommand) ∨ legalError i s e := by
  by_cases hw : i.wellFormed = true
  · obtain ⟨t', ht', herr⟩ := exec_endsInError i s hw
    cases h.symm.trans ht'
    exact .inr ((herr e).mp hr)
  · cases h.symm.trans (exec_of_not_wellFormed i s hw)
    cases hr
    exact .inl ⟨hw, rfl⟩

/-- Settles O39: the numbers by kind of response, the errors by the two ways an instruction can have one. -/
theorem outcomesOfACommand : Obligations.OutcomesOfACommand := by
  refine ⟨port_status, fun w c => rfl, rfl, rfl, rfl, fun i s t e h hr => ?raised, fun s t e h hr => ?never⟩
  case raised =>
    rcases error_cases i s t e h hr with ⟨hw, rfl⟩ | herr
    · exact checked_of_not_wellFormed i hw
    · rcases instr_cases i with rfl | rfl | rfl | ⟨w, rfl⟩ | ⟨w, rfl⟩ | ⟨f, rfl⟩ | ⟨f, w, rfl⟩
      · exact herr.elim
      · obtain ⟨-, rfl⟩ := herr
        rfl
      · rcases herr with ⟨-, rfl⟩ | ⟨-, -, rfl⟩ | ⟨-, -, -, rfl⟩
        · rfl
        · exact .inl rfl
        · exact .inl rfl
      · obtain ⟨-, rfl⟩ := herr
        exact .inr (.inl ⟨w, rfl⟩)
      · obtain ⟨-, rfl⟩ := herr
        exact .inr (.inr ⟨w, rfl⟩)
      · exact absurd herr (not_legalError_getCmd f s e)
      · exact absurd herr (not_legalError_setCmd f w s e)
  case never =>
    rcases h with h | ⟨f, h⟩
    · cases h
      cases hr
    · obtain ⟨r, he, hne⟩ := exec_getCmd f s
      cases h.symm.trans he
      exact hne e (Option.some_inj.mp hr)

end Sys2Proof.Machine
end
